-- ==== Sys2Proof/Word.lean ====
section
/-! DEFINITION. The word of the CORE: every register, every memory cell and every channel word is one 32-bit
two's-complement word (00_scope.md R6 and R7, 10_state.md R20). Its value as a number is `BitVec.toInt`. -/

namespace Sys2Proof

/-- A word of W = 32 bits (00_scope.md R6, R7). `w.toInt` is its signed value, in −2^31 .. 2^31 − 1. -/
abbrev Word := BitVec 32

end Sys2Proof
end

