-- ==== Sys2Proof/Config.lean ====
section
/-! DEFINITION. The parameters of 00_scope.md R6: the constants of this hardware, the launch parameters that the
spec leaves open or optional, and the free value of opcode 8. -/

namespace Sys2Proof.Config

/-- `MEM_SIZE`: the number of memory cells, addresses 0..1999 (R6, R40). -/
def memSize : Nat := 2000

/-- `KERNEL_BASE`: the lowest address protected from user-mode loads (R6, R44). -/
def kernelBase : Int := 1000

/-- `USER_STACK_TOP`: the reset value of SP (R6, R37). -/
def userStackTop : Word := 999

/-- `SYS_STACK_TOP`: the value SP takes at trap entry before its two pushes (R6, R230). -/
def sysStackTop : Word := 1999

/-- `TIMER_VECTOR`: PC after a timer-interrupt entry (R6, R231). -/
def timerVector : Word := 1000

/-- `SYSCALL_VECTOR`: PC after a system-call entry (R6, R232). -/
def syscallVector : Word := 1500

/-- `RESET_PC`: PC at reset (R6, R37). -/
def resetPc : Word := 0

/-- `CNT_MAX`: the largest value of `instruction_count` and of `pending_interrupts` (R6, R28, R29). -/
def cntMax : Nat := 2147483647

/-- What a memory cell that no image and no store has named reads as. DESIGN CHOICE, unsafe (log entry 2): MEM0 is
OPEN (R6, D14); every MEM0 can still be given through `Launch.image`. -/
def unlistedCell : Word := 0

/-- The free value behind `Draw()` (R11, R120): draw number `n` is `freeDraw n + 1`. It has no body, so nothing but
its bound 0..99 can be proved of it, and no relation between two draws (D12; log entry 8). -/
opaque freeDraw : Nat → Fin 100

/-- The direction of one copy pair, `COPY_DIR` of R6 (D3). -/
inductive CopyDir where
  /-- The spec's default: the even code copies AC into the register, the odd code the register into AC. -/
  | evenWritesRegister
  /-- The other reading that D3 offers: the even code copies the register into AC. -/
  | evenWritesAc
  deriving DecidableEq, Repr

/-- The parameters of R6 that a running CORE reads and that are not constants of the hardware. They are fixed for a
run (R34); State holds them because a step is a function of the state alone (log entry 4). -/
structure Params where
  /-- `Q`, the timer quantum: OPEN, an integer at least 1. -/
  quantum : Nat
  /-- `EXIT_FAIL`, the exit status on a fatal error: OPEN, nonzero. -/
  exitFail : Int
  /-- `ADMIT_ONCE_PER_COUNT`, default false (D16). -/
  admitOnce : Bool
  /-- `CHECK_STORES`, default false (D7). -/
  checkStores : Bool
  /-- `COPY_DIR` of the pair 14/15 (D3). -/
  copyDirX : CopyDir
  /-- `COPY_DIR` of the pair 16/17 (D3). -/
  copyDirY : CopyDir
  /-- `COPY_DIR` of the pair 18/19 (D3). -/
  copyDirSp : CopyDir
  deriving DecidableEq, Repr

/-- The parameters lie in the ranges R6 gives them: Q ≥ 1 and EXIT_FAIL ≠ 0. Outside them there is no run (R248). -/
def Params.ok (p : Params) : Bool := decide (1 ≤ p.quantum) && decide (p.exitFail ≠ 0)

/-- The parameters `State.reset` uses. The three options have the spec's defaults (R6). `quantum` is DESIGN CHOICE,
unsafe (log entry 4): the "large" Q of 95_test_vectors.md section 0. `exitFail` is DESIGN CHOICE, unsafe (log entry
5): the value R6 suggests. -/
def defaultParams : Params where
  quantum := 1000000
  exitFail := 1
  admitOnce := false
  checkStores := false
  copyDirX := .evenWritesRegister
  copyDirY := .evenWritesRegister
  copyDirSp := .evenWritesRegister

end Sys2Proof.Config
end

