-- ==== Sys2Proof/Machine/State.lean ====
section
/-! DEFINITION. The state of the CORE as plain data (10_state.md), the reasons a step stops, and reset (10_state.md
R37, 70_reset_and_hazards.md R260). -/

namespace Sys2Proof.Machine

open Sys2Proof.Config

/-- Memory contents: (address, word) pairs, addresses strictly rising and below 2000, no entry equal to
`unlistedCell`. A cell is a whole word: the CORE has no bytes (20_memory.md R66; log entry 1). -/
abbrev Mem := List (Nat × Word)

/-- The addressing-mode flag (10_state.md R27, 60_exceptions.md R220). -/
inductive Mode where
  | user
  | kernel
  deriving DecidableEq, Repr

/-- An element of the output stream (10_state.md R31). -/
inductive OutEvent where
  /-- `Int(v)`: port 1. -/
  | int (v : Word)
  /-- `Char(v)`: port 2; it carries the whole word (41_random_output.md R121). -/
  | char (v : Word)
  deriving DecidableEq, Repr

/-- An element of the request trace (20_memory.md R61). -/
inductive Request where
  /-- `R(a)`: a ReadReq with its ReadResp. -/
  | read (a : Word)
  /-- `W(a, v)`: a WriteAddr and its WriteData. -/
  | write (a v : Word)
  /-- `Shutdown`. -/
  | shutdown
  deriving DecidableEq, Repr

/-- A message on the request channel (20_memory.md R50). The response channel's one message, `ReadResp(v)`, is its
word. -/
inductive Message where
  | readReq (a : Word)
  | writeAddr (a : Word)
  | writeData (v : Word)
  | shutdown
  deriving DecidableEq, Repr

/-- The CPU-side request FSM (20_memory.md R51 to R53). -/
inductive CpuFsm where
  | idle
  | awaitRead (a : Word)
  | closed
  deriving DecidableEq, Repr

/-- The Memory Store FSM (20_memory.md R55). -/
inductive StoreFsm where
  | serving
  | awaitData (a : Word)
  | terminated
  deriving DecidableEq, Repr

/-- The fault record: the cause and the info of 60_exceptions.md R238. `pc` and `mode` are their values at
detection. -/
inductive FaultRecord where
  /-- Code 1: a user-mode load of opcodes 2 to 6 at 1000 or above. -/
  | memoryViolation (addr : Word) (mode : Mode) (pc : Word)
  /-- Code 2: IR is no code of the opcode map. -/
  | illegalInstruction (ir pc : Word)
  /-- Code 3: a request address outside 0..1999. -/
  | outOfRange (addr : Word) (mode : Mode) (pc : Word)
  /-- Code 4: opcode 9 with a port other than 1 and 2. -/
  | illegalPort (port pc : Word)
  /-- Code 5: opcode 29 in kernel mode. -/
  | kernelSyscall (pc : Word)
  /-- Code 6: `instruction_count` or `pending_interrupts` would pass CNT_MAX. -/
  | counterOverflow (pc : Word)
  /-- Code 7: the store's defensive checks; nothing in this hardware records it (D23, D33). -/
  | protocolError
  /-- Code 8: the host's check before reset (R248). -/
  | configError
  deriving DecidableEq, Repr

/-- The run status (10_state.md R32). -/
inductive RunStatus where
  | running
  | halted
  | faulted (r : FaultRecord)
  deriving DecidableEq, Repr

/-- The whole state of the CORE (10_state.md R20 to R37). -/
structure State where
  /-- Program counter (R24). -/
  pc : Word
  /-- Stack pointer: the next free slot (R23). -/
  sp : Word
  /-- Instruction register: the last fetched opcode word (R25). -/
  ir : Word
  /-- Accumulator (R21). -/
  ac : Word
  /-- Index register X (R22). -/
  x : Word
  /-- Index register Y (R22). -/
  y : Word
  /-- The addressing-mode flag (R27). -/
  mode : Mode
  /-- `instruction_count`, 0..CNT_MAX (R28). -/
  instrCount : Nat
  /-- `pending_interrupts`, 0..CNT_MAX (R29). -/
  pending : Nat
  /-- The cells of the Memory Store (R30). -/
  mem : Mem
  /-- The output stream, oldest first (R31). -/
  out : List OutEvent
  /-- The request trace, oldest first (20_memory.md R61). -/
  trace : List Request
  /-- The run status (R32). -/
  status : RunStatus
  /-- The CPU-side request FSM (R33). -/
  cpu : CpuFsm
  /-- The Memory Store FSM (R33). -/
  store : StoreFsm
  /-- The launch parameters, fixed for a run (R34; log entry 4). -/
  params : Params
  /-- The model's own: the count at which T last fired; written only under `params.admitOnce` (log entry 7). -/
  timerServedAt : Option Nat
  /-- The model's own: how many draws opcode 8 has taken (log entry 8). -/
  draws : Nat
  deriving DecidableEq, Repr

/-- Why the machine has no next state. None of these is an effect of an instruction. -/
inductive Fault where
  /-- Raised by `step` when status is Halted: "takes no further instruction cycle" (10_state.md R32). Safe: the run is
  over, and no claim about a later cycle can be proved. -/
  | runHalted
  /-- Raised by `step` when status is Faulted (10_state.md R32). Safe, as `runHalted`. -/
  | runFaulted
  /-- Raised by a request when the CPU FSM is not Idle: no transition exists (20_memory.md R51 to R53). Stuck, safe;
  no reachable state raises it (log entry 11). -/
  | cpuNotIdle
  /-- Raised by a read that the store does not answer: the CPU "never returns" (20_memory.md R59). Stuck, safe; no
  reachable state raises it (log entry 11). -/
  | noResponse
  deriving DecidableEq, Repr

/-- Why the model gives no meaning. -/
inductive Refusal where
  /-- Raised by an arm of `exec` for an instruction without a meaning yet. No arm of this model raises it. Safe. -/
  | notModelled (mnemonic : String)
  /-- Raised by `step` when the launch parameters are outside R6's ranges (Q < 1, or EXIT_FAIL = 0): no run exists
  (60_exceptions.md R248, ConfigError). Safe. -/
  | badLaunch
  deriving DecidableEq, Repr

/-- Everything the host gives the CORE before reset (70_reset_and_hazards.md R267, 00_scope.md R6). -/
structure Launch where
  /-- Q, EXIT_FAIL and the options. -/
  params : Params
  /-- AC0, OPEN (R37). -/
  ac0 : Word
  /-- X0, OPEN (R37). -/
  x0 : Word
  /-- Y0, OPEN (R37). -/
  y0 : Word
  /-- MEM0, OPEN (R37), in canonical form. -/
  image : Mem
  deriving DecidableEq, Repr

/-- The state right after reset for a given launch (10_state.md R37, 70_reset_and_hazards.md R260). -/
def State.boot (l : Launch) : State where
  pc := resetPc
  sp := userStackTop
  ir := 0
  ac := l.ac0
  x := l.x0
  y := l.y0
  mode := .user
  instrCount := 0
  pending := 0
  mem := l.image
  out := []
  trace := []
  status := .running
  cpu := .idle
  store := .serving
  params := l.params
  timerServedAt := none
  draws := 0

/-- The launch `State.reset` uses. AC0 = X0 = Y0 = 0 is DESIGN CHOICE, unsafe (log entry 3); the empty image is
MEM0 = `unlistedCell` everywhere, DESIGN CHOICE, unsafe (log entry 2). -/
def defaultLaunch : Launch where
  params := defaultParams
  ac0 := 0
  x0 := 0
  y0 := 0
  image := []

/-- The machine right after reset (10_state.md R37), with the launch inputs of `defaultLaunch`. -/
def State.reset : State := State.boot defaultLaunch

end Sys2Proof.Machine
end

