-- ==== Sys2Proof/Machine/Act.lean ====
section
/-! DEFINITION. How the parts of an instruction cycle are put together: a part answers a value and a state, or it
ends the cycle with an outcome of the step. `raise` of 00_scope.md R7 ends the cycle at once: "No later pseudocode
line of that cycle executes". -/

namespace Sys2Proof.Machine

/-- The outcome of a step of the CORE. -/
abbrev Out := Host.Outcome State Fault Refusal

/-- A part of an instruction cycle. -/
inductive Act (α : Type) where
  /-- The part is done: its value, and the state it leaves. -/
  | ok (a : α) (s : State)
  /-- The cycle ends here. -/
  | stop (o : Out)

/-- Run one part and then another. -/
def Act.bind {α β : Type} (m : Act α) (k : α → State → Act β) : Act β :=
  match m with
  | .ok a s => k a s
  | .stop o => .stop o

/-- Run one part and then the rest of the cycle. -/
def Act.finish {α : Type} (m : Act α) (k : α → State → Out) : Out :=
  match m with
  | .ok a s => k a s
  | .stop o => o

end Sys2Proof.Machine
end

