-- ==== Sys2Proof/Machine/Flags.lean ====
section
/-! DEFINITION. The ALU and the branch tests. The CORE has no flags and no condition codes (10_state.md R26): no
arithmetic reports overflow, and the branches test AC directly. -/

namespace Sys2Proof.Machine

/-- `wrap(v)`: the word congruent to the integer `v` modulo 2^32 (00_scope.md R7). -/
def wrap (v : Int) : Word := BitVec.ofInt 32 v

/-- The ALU's addition: the exact sum, wrapped (42_alu.md R130). -/
def aluAdd (a b : Word) : Word := wrap (a.toInt + b.toInt)

/-- The ALU's subtraction `a − b`: the exact difference, wrapped (42_alu.md R130). -/
def aluSub (a b : Word) : Word := wrap (a.toInt - b.toInt)

/-- The test of opcode 21, and its negation the test of opcode 22 (44_control_transfer.md R162, R163). -/
def acIsZero (s : State) : Bool := decide (s.ac.toInt = 0)

end Sys2Proof.Machine
end

