-- ==== Sys2Proof/Machine/Memory.lean ====
section
/-! DEFINITION. Reading and writing one cell of the Memory Store's array (10_state.md R30, 20_memory.md R56, R57), and
the canonical form of its contents. -/

namespace Sys2Proof.Machine

open Sys2Proof.Config

/-- The cell at address `a`; a cell that is not listed reads as `unlistedCell` (log entry 2). -/
def Mem.read : Mem → Nat → Word
  | [], _ => unlistedCell
  | (k, v) :: rest, a => if k = a then v else Mem.read rest a

/-- The contents with cell `a` holding `v`, in canonical form again. -/
def Mem.write : Mem → Nat → Word → Mem
  | [], a, v => if v = unlistedCell then [] else [(a, v)]
  | (k, u) :: rest, a, v =>
    if a < k then
      if v = unlistedCell then (k, u) :: rest else (a, v) :: (k, u) :: rest
    else if a = k then
      if v = unlistedCell then rest else (a, v) :: rest
    else (k, u) :: Mem.write rest a v

/-- The canonical form: addresses strictly rising, every address a cell of the store, no entry equal to what an
unlisted cell reads as. -/
abbrev Mem.Wf (m : Mem) : Prop :=
  m.Pairwise (fun p q => p.1 < q.1) ∧ ∀ p ∈ m, p.1 < memSize ∧ p.2 ≠ unlistedCell

/-- The range check of 00_scope.md R9: only the values 0..1999 name cells (20_memory.md R40). -/
def inRange (a : Word) : Bool := decide (0 ≤ a.toInt) && decide (a.toInt < (memSize : Int))

end Sys2Proof.Machine
end

