-- ==== Sys2Proof/Machine/Ops.lean ====
section
/-! DEFINITION. The operations every instruction is built from: the two sides of the channel protocol, the memory
primitives, the stack primitives, the fatal sequence, trap entry and trap return, output and random draw. -/

namespace Sys2Proof.Machine

open Sys2Proof.Config

/-! ## The Memory Store's side of the protocol (20_memory.md R55 to R59) -/

/-- A defensive check of the store fired: it stops serving (20_memory.md R59). Taking `terminated` for "stopped" is
DESIGN CHOICE; no reachable state comes here (log entry 11). -/
def storeError (s : State) : State := { s with store := .terminated }

/-- The store receives one message: its new state, and the word of its ReadResp if it answers (20_memory.md R55). -/
def storeRecv (m : Message) (s : State) : State × Option Word :=
  match s.store with
  | .serving =>
    match m with
    | .readReq a => if inRange a then (s, some (s.mem.read a.toNat)) else (storeError s, none)
    | .writeAddr a => if inRange a then ({ s with store := .awaitData a }, none) else (storeError s, none)
    | .writeData _ => (storeError s, none)
    | .shutdown => ({ s with store := .terminated }, none)
  | .awaitData a =>
    match m with
    | .readReq _ => (storeError s, none)
    | .writeAddr _ => (storeError s, none)
    | .writeData v => ({ s with mem := s.mem.write a.toNat v, store := .serving }, none)
    | .shutdown => (storeError s, none)
  | .terminated => (storeError s, none)

/-! ## The CPU's side of the protocol (20_memory.md R51 to R53) -/

/-- A read transaction: ReadReq out, blocked in AwaitRead, ReadResp in (20_memory.md R51). Without a response the CPU
is stuck (R59). -/
def sendRead (a : Word) (s : State) : Act Word :=
  match s.cpu with
  | .idle =>
    match storeRecv (.readReq a) { s with cpu := .awaitRead a, trace := s.trace ++ [.read a] } with
    | (t, some v) => .ok v { t with cpu := .idle }
    | (_, none) => .stop (.fault .noResponse)
  | _ => .stop (.fault .cpuNotIdle)

/-- A write transaction: WriteAddr and WriteData back to back, no response awaited (20_memory.md R52). -/
def sendWrite (a v : Word) (s : State) : Act Unit :=
  match s.cpu with
  | .idle =>
    let t := (storeRecv (.writeAddr a) { s with trace := s.trace ++ [.write a v] }).1
    .ok () (storeRecv (.writeData v) t).1
  | _ => .stop (.fault .cpuNotIdle)

/-- The shutdown transaction, the CPU's last message (20_memory.md R53, R58). -/
def sendShutdown (s : State) : Act Unit :=
  match s.cpu with
  | .idle => .ok () (storeRecv .shutdown { s with cpu := .closed, trace := s.trace ++ [.shutdown] }).1
  | _ => .stop (.fault .cpuNotIdle)

/-! ## Fatal faults (60_exceptions.md R238 to R240) -/

/-- The fatal sequence (60_exceptions.md R240): the report is the new status; then Shutdown; the exit status is
`State.exitStatus`. Everything else stays as it was at detection (R239). -/
def fatal (r : FaultRecord) (s : State) : Out :=
  (sendShutdown { s with status := .faulted r }).finish fun _ t => .next t

/-- `raise F(info)` (00_scope.md R7): the cycle ends at once with the fatal sequence. -/
def raise {α : Type} (r : FaultRecord) (s : State) : Act α := .stop (fatal r s)

/-- The cause code of 60_exceptions.md R238. -/
def FaultRecord.code : FaultRecord → Nat
  | .memoryViolation _ _ _ => 1
  | .illegalInstruction _ _ => 2
  | .outOfRange _ _ _ => 3
  | .illegalPort _ _ => 4
  | .kernelSyscall _ => 5
  | .counterOverflow _ => 6
  | .protocolError => 7
  | .configError => 8

/-- The exit status of a run that has ended: 0 when Halted, EXIT_FAIL when Faulted (10_state.md R32). -/
def State.exitStatus (s : State) : Option Int :=
  match s.status with
  | .running => none
  | .halted => some 0
  | .faulted _ => some s.params.exitFail

/-! ## Memory primitives (00_scope.md R9, R10) -/

/-- `MemRead(a, 1)` (00_scope.md R9): the range check comes before any request. -/
def memRead (a : Word) (s : State) : Act Word :=
  if inRange a then sendRead a s else raise (.outOfRange a s.mode s.pc) s

/-- `MemWrite(a, 1, v)` (00_scope.md R9). -/
def memWrite (a v : Word) (s : State) : Act Unit :=
  if inRange a then sendWrite a v s else raise (.outOfRange a s.mode s.pc) s

/-- The condition of the protection check: user mode and an address of 1000 or above, as a signed number
(20_memory.md R44). -/
def violates (s : State) (a : Word) : Bool := decide (s.mode = .user) && decide (kernelBase ≤ a.toInt)

/-- `CheckedRead(a)`: the protection check, then `MemRead` (00_scope.md R10, 20_memory.md R44). -/
def checkedRead (a : Word) (s : State) : Act Word :=
  if violates s a then raise (.memoryViolation a s.mode s.pc) s else memRead a s

/-- The write of opcode 7 and of `Push`: unchecked (20_memory.md R43, R45), unless the option CHECK_STORES is on
(00_scope.md R6, D7); that the option's check comes before the range check is DEDUCED from R44 (log entry 6). -/
def storeWord (a v : Word) (s : State) : Act Unit :=
  if s.params.checkStores && violates s a then raise (.memoryViolation a s.mode s.pc) s else memWrite a v s

/-! ## Stacks (20_memory.md R46 to R49) -/

/-- `Push(v)`: write at SP, then decrement SP; a write that faults leaves SP (20_memory.md R46). -/
def push (v : Word) (s : State) : Act Unit :=
  (storeWord s.sp v s).bind fun _ t => .ok () { t with sp := wrap (t.sp.toInt - 1) }

/-- `Pop()`: increment SP, then read at the new SP; a read that faults finds SP incremented (20_memory.md R47). -/
def pop (s : State) : Act Word :=
  memRead (wrap (s.sp.toInt + 1)) { s with sp := wrap (s.sp.toInt + 1) }

/-! ## The advance, output and the random source -/

/-- The advance: PC moves to the next word (30_encoding.md R75). -/
def advance (s : State) : State := { s with pc := wrap (s.pc.toInt + 1) }

/-- Append one event to the output stream (41_random_output.md R121, R122). -/
def emit (e : OutEvent) (s : State) : State := { s with out := s.out ++ [e] }

/-- The value of `Draw()` number `n`: a free value in 1..100 (00_scope.md R11, 41_random_output.md R120; log entry
8). -/
def drawValue (n : Nat) : Word := BitVec.ofNat 32 ((freeDraw n).val + 1)

/-- `Draw()`: each execution takes a fresh draw (41_random_output.md R120). -/
def draw (s : State) : Word × State := (drawValue s.draws, { s with draws := s.draws + 1 })

/-! ## Trap entry and trap return (60_exceptions.md R230, 46_system.md R191) -/

/-- `TrapEntry(vector, saved_pc)`: kernel mode, SP to the system stack top, push the old SP and then the saved PC, PC
to the vector (60_exceptions.md R230). -/
def trapEntry (vector savedPc : Word) (s : State) : Out :=
  (push s.sp { s with mode := .kernel, sp := sysStackTop }).finish fun _ t =>
    (push savedPc t).finish fun _ u => .next { u with pc := vector }

/-- Trap return: user mode, pop PC, pop SP, no advance (46_system.md R191). PC is written before the second pop, so a
fault of that pop reports the popped PC (R239). -/
def trapReturn (s : State) : Out :=
  (pop { s with mode := .user }).finish fun newPc t =>
    (pop { t with pc := newPc }).finish fun newSp u => .next { u with sp := newSp }

end Sys2Proof.Machine
end

