-- ==== Sys2Proof/Machine/Alu.lean ====
section
/-! DEFINITION. The six arithmetic instructions, opcodes 10 to 13, 25 and 26 (42_alu.md R131 to R136). None raises an
exception and none writes a flag. -/

namespace Sys2Proof.Machine

/-- AddX (R131). -/
def execAddX (s : State) : Out := .next (advance { s with ac := aluAdd s.ac s.x })

/-- AddY (R132). -/
def execAddY (s : State) : Out := .next (advance { s with ac := aluAdd s.ac s.y })

/-- SubX (R133): AC − X, not X − AC. -/
def execSubX (s : State) : Out := .next (advance { s with ac := aluSub s.ac s.x })

/-- SubY (R134). -/
def execSubY (s : State) : Out := .next (advance { s with ac := aluSub s.ac s.y })

/-- IncX (R135). -/
def execIncX (s : State) : Out := .next (advance { s with x := aluAdd s.x 1 })

/-- DecX (R136). -/
def execDecX (s : State) : Out := .next (advance { s with x := aluSub s.x 1 })

end Sys2Proof.Machine
end

