-- ==== Sys2Proof/Machine/Control.lean ====
section
/-! DEFINITION. Control transfer, opcodes 20 to 24 (44_control_transfer.md R160 to R165). Targets are absolute and
unchecked; a taken transfer skips the advance (30_encoding.md R75). -/

namespace Sys2Proof.Machine

/-- Jump (R161). -/
def execJump (t : Word) (s : State) : Out := .next { s with pc := t }

/-- JumpIfEqual (R162). -/
def execJumpIfEqual (t : Word) (s : State) : Out :=
  if acIsZero s then .next { s with pc := t } else .next (advance s)

/-- JumpIfNotEqual (R163). -/
def execJumpIfNotEqual (t : Word) (s : State) : Out :=
  if acIsZero s then .next (advance s) else .next { s with pc := t }

/-- Call (R164): push the address after the operand word, then jump. PC is at the operand word while it runs, and
stays there when the push faults. -/
def execCall (t : Word) (s : State) : Out :=
  (push (wrap (s.pc.toInt + 1)) s).finish fun _ u => .next { u with pc := t }

/-- Ret (R165): any popped word is the target; the pop is not checked. -/
def execRet (s : State) : Out := (pop s).finish fun v t => .next { t with pc := v }

end Sys2Proof.Machine
end

