-- ==== Sys2Proof/Machine/Operands.lean ====
section
/-! DEFINITION. The operand forms (30_encoding.md R80) and the operand read (30_encoding.md R74). The operand is the
whole operand word: no extension, scaling or shifting. -/

namespace Sys2Proof.Machine

/-- `FetchOperand()`: PC moves to the operand word, which is read without a protection check; it is not counted and IR
is unchanged (30_encoding.md R74). -/
def fetchOperand (s : State) : Act Word :=
  memRead (wrap (s.pc.toInt + 1)) { s with pc := wrap (s.pc.toInt + 1) }

/-- The effective address of opcode 4: operand + X, wrapped (40_load_store.md R103). -/
def eaIndexedX (b : Word) (s : State) : Word := wrap (b.toInt + s.x.toInt)

/-- The effective address of opcode 5: operand + Y, wrapped (40_load_store.md R104). -/
def eaIndexedY (b : Word) (s : State) : Word := wrap (b.toInt + s.y.toInt)

/-- The effective address of opcode 6: SP + X + 1, wrapped (40_load_store.md R105). -/
def eaStackX (s : State) : Word := wrap (s.sp.toInt + s.x.toInt + 1)

/-- A load of a checked effective address into AC, then the advance: the common shape of opcodes 2 to 6
(40_load_store.md R101 to R105). -/
def loadChecked (a : Word) (s : State) : Out :=
  (checkedRead a s).finish fun v t => .next (advance { t with ac := v })

end Sys2Proof.Machine
end

