-- ==== Sys2Proof/Machine/LoadStore.lean ====
section
/-! DEFINITION. Loads and stores, opcodes 1 to 7 (40_load_store.md R100 to R106). The operand has been read: PC is at
the operand word for `F2`. -/

namespace Sys2Proof.Machine

/-- LoadValue (R100): the operand is a value and is never checked. -/
def execLoadValue (v : Word) (s : State) : Out := .next (advance { s with ac := v })

/-- LoadAddr (R101). -/
def execLoadAddr (a : Word) (s : State) : Out := loadChecked a s

/-- LoadInd (R102): both addresses are checked, everything about the first before anything about the second. -/
def execLoadInd (a1 : Word) (s : State) : Out :=
  (checkedRead a1 s).finish fun a2 t => loadChecked a2 t

/-- LoadIdxX (R103). -/
def execLoadIdxX (b : Word) (s : State) : Out := loadChecked (eaIndexedX b s) s

/-- LoadIdxY (R104). -/
def execLoadIdxY (b : Word) (s : State) : Out := loadChecked (eaIndexedY b s) s

/-- LoadSpX (R105). -/
def execLoadSpX (s : State) : Out := loadChecked (eaStackX s) s

/-- Store (R106): no protection check in either mode (20_memory.md R45). -/
def execStore (a : Word) (s : State) : Out :=
  (storeWord a s.ac s).finish fun _ t => .next (advance t)

end Sys2Proof.Machine
end

