-- ==== Sys2Proof/Machine/RandomOutput.lean ====
section
/-! DEFINITION. Random value and output, opcodes 8 and 9 (41_random_output.md R120, R121). -/

namespace Sys2Proof.Machine

/-- Get (R120): AC takes a fresh draw. -/
def execGet (s : State) : Out := .next (advance { (draw s).2 with ac := (draw s).1 })

/-- Put (R121): port 1 appends `Int(AC)`, port 2 `Char(AC)`, any other port raises IllegalPort. -/
def execPut (p : Word) (s : State) : Out :=
  if p.toInt = 1 then .next (advance (emit (.int s.ac) s))
  else if p.toInt = 2 then .next (advance (emit (.char s.ac) s))
  else fatal (.illegalPort p s.pc) s

end Sys2Proof.Machine
end

