-- ==== Sys2Proof/Machine/Stack.lean ====
section
/-! DEFINITION. The stack instructions, opcodes 27 and 28 (45_stack.md R180, R181). -/

namespace Sys2Proof.Machine

/-- Push (R180). -/
def execPush (s : State) : Out := (push s.ac s).finish fun _ t => .next (advance t)

/-- Pop (R181). -/
def execPop (s : State) : Out := (pop s).finish fun v t => .next (advance { t with ac := v })

end Sys2Proof.Machine
end

