-- ==== Sys2Proof/Machine/System.lean ====
section
/-! DEFINITION. The system instructions, opcodes 29, 30 and 50 (46_system.md R190 to R192). -/

namespace Sys2Proof.Machine

open Sys2Proof.Config

/-- Int (R190): in user mode a trap entry to the system-call vector that saves the address after this instruction
(60_exceptions.md R232); in kernel mode KernelSyscall. -/
def execInt (s : State) : Out :=
  match s.mode with
  | .kernel => fatal (.kernelSyscall s.pc) s
  | .user => trapEntry syscallVector (wrap (s.pc.toInt + 1)) s

/-- IRet (R191): the same in both modes (D9). -/
def execIRet (s : State) : Out := trapReturn s

/-- End (R192): Shutdown, then Halted; PC stays at the opcode word (D27). -/
def execEnd (s : State) : Out := (sendShutdown s).finish fun _ t => .next { t with status := .halted }

end Sys2Proof.Machine
end

