-- ==== Sys2Proof/Machine/Transfer.lean ====
section
/-! DEFINITION. Register transfer, opcodes 14 to 19 (43_register_transfer.md R150 to R155). With the default COPY_DIR
the even code of a pair copies AC into the register and the odd code the register into AC; the option turns a pair
round (00_scope.md R6, D3). -/

namespace Sys2Proof.Machine

open Sys2Proof.Config

/-- CopyToX (R150). -/
def execCopyToX (s : State) : Out :=
  match s.params.copyDirX with
  | .evenWritesRegister => .next (advance { s with x := s.ac })
  | .evenWritesAc => .next (advance { s with ac := s.x })

/-- CopyFromX (R151). -/
def execCopyFromX (s : State) : Out :=
  match s.params.copyDirX with
  | .evenWritesRegister => .next (advance { s with ac := s.x })
  | .evenWritesAc => .next (advance { s with x := s.ac })

/-- CopyToY (R152). -/
def execCopyToY (s : State) : Out :=
  match s.params.copyDirY with
  | .evenWritesRegister => .next (advance { s with y := s.ac })
  | .evenWritesAc => .next (advance { s with ac := s.y })

/-- CopyFromY (R153). -/
def execCopyFromY (s : State) : Out :=
  match s.params.copyDirY with
  | .evenWritesRegister => .next (advance { s with ac := s.y })
  | .evenWritesAc => .next (advance { s with y := s.ac })

/-- CopyToSp (R154): no check in either mode. -/
def execCopyToSp (s : State) : Out :=
  match s.params.copyDirSp with
  | .evenWritesRegister => .next (advance { s with sp := s.ac })
  | .evenWritesAc => .next (advance { s with ac := s.sp })

/-- CopyFromSp (R155). -/
def execCopyFromSp (s : State) : Out :=
  match s.params.copyDirSp with
  | .evenWritesRegister => .next (advance { s with ac := s.sp })
  | .evenWritesAc => .next (advance { s with sp := s.ac })

end Sys2Proof.Machine
end

