-- ==== Sys2Proof/Syntax.lean ====
section
/-! DEFINITION. The instructions: one constructor per row of the opcode map (30_encoding.md R77), 31 in all. An `F2`
instruction carries its operand word whole (R70, R80); an `F1` instruction carries nothing (R71). -/

namespace Sys2Proof

/-- The OSP instruction set (30_encoding.md R77). There is no pseudo-instruction (R82). -/
inductive Instr where
  /-- 1 LoadValue (R100): the operand is the value. -/
  | loadValue (v : Word)
  /-- 2 LoadAddr (R101): the operand is the effective address. -/
  | loadAddr (a : Word)
  /-- 3 LoadInd (R102): the operand is the address of the cell that holds the effective address. -/
  | loadInd (a : Word)
  /-- 4 LoadIdxX (R103): the operand is the base, indexed by X. -/
  | loadIdxX (b : Word)
  /-- 5 LoadIdxY (R104): the operand is the base, indexed by Y. -/
  | loadIdxY (b : Word)
  /-- 6 LoadSpX (R105). -/
  | loadSpX
  /-- 7 Store (R106): the operand is the address stored to. -/
  | store (a : Word)
  /-- 8 Get (R120). -/
  | get
  /-- 9 Put (R121): the operand is the port. -/
  | put (p : Word)
  /-- 10 AddX (R131). -/
  | addX
  /-- 11 AddY (R132). -/
  | addY
  /-- 12 SubX (R133). -/
  | subX
  /-- 13 SubY (R134). -/
  | subY
  /-- 14 CopyToX (R150). -/
  | copyToX
  /-- 15 CopyFromX (R151). -/
  | copyFromX
  /-- 16 CopyToY (R152). -/
  | copyToY
  /-- 17 CopyFromY (R153). -/
  | copyFromY
  /-- 18 CopyToSp (R154). -/
  | copyToSp
  /-- 19 CopyFromSp (R155). -/
  | copyFromSp
  /-- 20 Jump (R161): the operand is the target. -/
  | jump (t : Word)
  /-- 21 JumpIfEqual (R162): the operand is the target. -/
  | jumpIfEqual (t : Word)
  /-- 22 JumpIfNotEqual (R163): the operand is the target. -/
  | jumpIfNotEqual (t : Word)
  /-- 23 Call (R164): the operand is the target. -/
  | call (t : Word)
  /-- 24 Ret (R165). -/
  | ret
  /-- 25 IncX (R135). -/
  | incX
  /-- 26 DecX (R136). -/
  | decX
  /-- 27 Push (R180). -/
  | push
  /-- 28 Pop (R181). -/
  | pop
  /-- 29 Int (R190). -/
  | int
  /-- 30 IRet (R191). -/
  | iret
  /-- 50 End (R192). -/
  | endRun
  deriving DecidableEq, Repr

/-- The operand word of an `F2` instruction; none for `F1` (30_encoding.md R71). -/
def Instr.operand : Instr → Option Word
  | .loadValue v => some v
  | .loadAddr a => some a
  | .loadInd a => some a
  | .loadIdxX b => some b
  | .loadIdxY b => some b
  | .loadSpX => none
  | .store a => some a
  | .get => none
  | .put p => some p
  | .addX => none
  | .addY => none
  | .subX => none
  | .subY => none
  | .copyToX => none
  | .copyFromX => none
  | .copyToY => none
  | .copyFromY => none
  | .copyToSp => none
  | .copyFromSp => none
  | .jump t => some t
  | .jumpIfEqual t => some t
  | .jumpIfNotEqual t => some t
  | .call t => some t
  | .ret => none
  | .incX => none
  | .decX => none
  | .push => none
  | .pop => none
  | .int => none
  | .iret => none
  | .endRun => none

end Sys2Proof
end

