-- ==== Sys2Proof/Machine/Dispatch.lean ====
section
/-! DEFINITION. Dispatch: one arm per instruction, each a direct call of its meaning (30_encoding.md R77). -/

namespace Sys2Proof.Machine

open Sys2Proof

def exec (i : Instr) (s : State) : Host.Outcome State Fault Refusal :=
  match i with
  | .loadValue v => Sys2Proof.Machine.execLoadValue v s
  | .loadAddr a => Sys2Proof.Machine.execLoadAddr a s
  | .loadInd a => Sys2Proof.Machine.execLoadInd a s
  | .loadIdxX b => Sys2Proof.Machine.execLoadIdxX b s
  | .loadIdxY b => Sys2Proof.Machine.execLoadIdxY b s
  | .loadSpX => Sys2Proof.Machine.execLoadSpX s
  | .store a => Sys2Proof.Machine.execStore a s
  | .get => Sys2Proof.Machine.execGet s
  | .put p => Sys2Proof.Machine.execPut p s
  | .addX => Sys2Proof.Machine.execAddX s
  | .addY => Sys2Proof.Machine.execAddY s
  | .subX => Sys2Proof.Machine.execSubX s
  | .subY => Sys2Proof.Machine.execSubY s
  | .copyToX => Sys2Proof.Machine.execCopyToX s
  | .copyFromX => Sys2Proof.Machine.execCopyFromX s
  | .copyToY => Sys2Proof.Machine.execCopyToY s
  | .copyFromY => Sys2Proof.Machine.execCopyFromY s
  | .copyToSp => Sys2Proof.Machine.execCopyToSp s
  | .copyFromSp => Sys2Proof.Machine.execCopyFromSp s
  | .jump t => Sys2Proof.Machine.execJump t s
  | .jumpIfEqual t => Sys2Proof.Machine.execJumpIfEqual t s
  | .jumpIfNotEqual t => Sys2Proof.Machine.execJumpIfNotEqual t s
  | .call t => Sys2Proof.Machine.execCall t s
  | .ret => Sys2Proof.Machine.execRet s
  | .incX => Sys2Proof.Machine.execIncX s
  | .decX => Sys2Proof.Machine.execDecX s
  | .push => Sys2Proof.Machine.execPush s
  | .pop => Sys2Proof.Machine.execPop s
  | .int => Sys2Proof.Machine.execInt s
  | .iret => Sys2Proof.Machine.execIRet s
  | .endRun => Sys2Proof.Machine.execEnd s

end Sys2Proof.Machine
end

