-- ==== Sys2Proof/WellFormed.lean ====
section
/-! DEFINITION. Which words are an instruction. Every term of `Instr` is well formed, because an operand may be any
word (30_encoding.md R78); what can be ill formed is a sequence of words: its opcode word may be no code of the map
(R76, R78), and its length may not be the one the opcode has (R71). -/

namespace Sys2Proof

/-- The codes of the one-word format `F1` (30_encoding.md R71). -/
def f1Codes : List Nat := [6, 8] ++ [10, 11, 12, 13, 14, 15, 16, 17, 18, 19] ++ [24, 25, 26, 27, 28, 29, 30, 50]

/-- The codes of the two-word format `F2` (30_encoding.md R71). -/
def f2Codes : List Nat := [1, 2, 3, 4, 5, 7, 9, 20, 21, 22, 23]

/-- The whole opcode word is a code of the map (30_encoding.md R70, R76). -/
def legalOpcode (w : Word) : Bool := decide (w.toNat ∈ f1Codes) || decide (w.toNat ∈ f2Codes)

/-- The number of words the format gives an opcode word; 0 for a word that is no code (30_encoding.md R71). -/
def lengthOfOpcode (w : Word) : Nat :=
  if w.toNat ∈ f1Codes then 1 else if w.toNat ∈ f2Codes then 2 else 0

/-- A sequence of words is exactly one instruction: a legal opcode word and the words its format asks for. The
operand word may be any word (30_encoding.md R78). -/
def wordsWellFormed : List Word → Bool
  | [] => false
  | w :: rest => legalOpcode w && decide (rest.length + 1 = lengthOfOpcode w)

end Sys2Proof
end

