-- ==== Sys2Proof/Decode.lean ====
section
/-! DEFINITION. The decoder and the encoder (30_encoding.md R70, R71, R76 to R79). The decoder compares the whole
opcode word with the 31 codes; no bit field of a word has a meaning of its own. It is total and rejects by name. -/

namespace Sys2Proof

/-- Why a sequence of words is no instruction. -/
inductive DecodeError where
  /-- There is no opcode word. -/
  | noWord
  /-- The opcode word is not one of 1..30 and 50 (30_encoding.md R76): the machine raises IllegalInstruction. -/
  | illegalOpcode (w : Word)
  /-- An `F2` opcode word with no operand word behind it (30_encoding.md R71). -/
  | missingOperand (w : Word)
  deriving DecidableEq, Repr

/-- What the opcode word alone decides (30_encoding.md R79): the instruction, or the instruction once its operand
word is known. -/
inductive Shape where
  /-- Format `F1`. -/
  | one (i : Instr)
  /-- Format `F2`: the instruction as a function of its operand word. -/
  | two (f : Word → Instr)

/-- The opcode map (30_encoding.md R77) on the opcode word's value; none is an illegal opcode (R76, R78). -/
def decodeOpcode (code : Nat) : Option Shape :=
  match code with
  | 1 => some (.two .loadValue)
  | 2 => some (.two .loadAddr)
  | 3 => some (.two .loadInd)
  | 4 => some (.two .loadIdxX)
  | 5 => some (.two .loadIdxY)
  | 6 => some (.one .loadSpX)
  | 7 => some (.two .store)
  | 8 => some (.one .get)
  | 9 => some (.two .put)
  | 10 => some (.one .addX)
  | 11 => some (.one .addY)
  | 12 => some (.one .subX)
  | 13 => some (.one .subY)
  | 14 => some (.one .copyToX)
  | 15 => some (.one .copyFromX)
  | 16 => some (.one .copyToY)
  | 17 => some (.one .copyFromY)
  | 18 => some (.one .copyToSp)
  | 19 => some (.one .copyFromSp)
  | 20 => some (.two .jump)
  | 21 => some (.two .jumpIfEqual)
  | 22 => some (.two .jumpIfNotEqual)
  | 23 => some (.two .call)
  | 24 => some (.one .ret)
  | 25 => some (.one .incX)
  | 26 => some (.one .decX)
  | 27 => some (.one .push)
  | 28 => some (.one .pop)
  | 29 => some (.one .int)
  | 30 => some (.one .iret)
  | 50 => some (.one .endRun)
  | _ => none

/-- Decoding a sequence of words: the instruction and the words behind it, or why there is none (30_encoding.md R76,
R79). The opcode is settled before the operand word is looked at. -/
def decode (ws : List Word) : Except DecodeError (Instr × List Word) :=
  match ws with
  | [] => .error .noWord
  | w :: rest =>
    match decodeOpcode w.toNat with
    | none => .error (.illegalOpcode w)
    | some (.one i) => .ok (i, rest)
    | some (.two f) =>
      match rest with
      | [] => .error (.missingOperand w)
      | v :: rest' => .ok (f v, rest')

/-- The opcode word of an instruction, from the table of 30_encoding.md R77. -/
def opcodeWord (i : Instr) : Word :=
  match i with
  | .loadValue _ => 1
  | .loadAddr _ => 2
  | .loadInd _ => 3
  | .loadIdxX _ => 4
  | .loadIdxY _ => 5
  | .loadSpX => 6
  | .store _ => 7
  | .get => 8
  | .put _ => 9
  | .addX => 10
  | .addY => 11
  | .subX => 12
  | .subY => 13
  | .copyToX => 14
  | .copyFromX => 15
  | .copyToY => 16
  | .copyFromY => 17
  | .copyToSp => 18
  | .copyFromSp => 19
  | .jump _ => 20
  | .jumpIfEqual _ => 21
  | .jumpIfNotEqual _ => 22
  | .call _ => 23
  | .ret => 24
  | .incX => 25
  | .decX => 26
  | .push => 27
  | .pop => 28
  | .int => 29
  | .iret => 30
  | .endRun => 50

/-- The words of an instruction: its opcode word, and for `F2` its operand word (30_encoding.md R70, R71). -/
def encode (i : Instr) : List Word := opcodeWord i :: i.operand.toList

/-- The instruction the decoder reads from an instruction of `nbits` bits `w`, numbered as spec/opcode_table.json
numbers them: bits 31..0 are the opcode word, bits 63..32 the operand word; bits above `nbits` are 0. -/
def decodeTableWord (nbits w : Nat) : Option Instr :=
  let bits := w % 2 ^ nbits
  match decode [BitVec.ofNat 32 bits, BitVec.ofNat 32 (bits / 2 ^ 32)] with
  | .ok (i, _) => some i
  | .error _ => none

end Sys2Proof
end

