-- ==== Sys2Proof/Machine/Fetch.lean ====
section
/-! DEFINITION. Fetch and decode (30_encoding.md R72 to R76): from the word at PC to the instruction that executes,
with PC at the opcode word of an `F1` instruction and at the operand word of an `F2` instruction. -/

namespace Sys2Proof.Machine

open Sys2Proof.Config

/-- `Fetch()` (30_encoding.md R73): read the opcode word, count it, store it in IR. -/
def fetchOpcode (s : State) : Act Word :=
  (memRead s.pc s).bind fun w t =>
    if cntMax ≤ t.instrCount then raise (.counterOverflow t.pc) t
    else .ok w { t with instrCount := t.instrCount + 1, ir := w }

/-- Decode IR (30_encoding.md R76) and, for `F2`, read the operand (R74). An illegal opcode is found before any
operand read. -/
def decodeIr (s : State) : Act Instr :=
  match decodeOpcode s.ir.toNat with
  | none => raise (.illegalInstruction s.ir s.pc) s
  | some (.one i) => .ok i s
  | some (.two f) => (fetchOperand s).bind fun v t => .ok (f v) t

/-- Steps 2 and 3 of the cycle up to execution (30_encoding.md R72). -/
def fetchInstr (s : State) : Act Instr := (fetchOpcode s).bind fun _ t => decodeIr t

end Sys2Proof.Machine
end

