-- ==== Sys2Proof/Machine/Timer.lean ====
section
/-! DEFINITION. The timer, the queued-interrupt counter and the interrupt admission check (60_exceptions.md R224 to
R231). -/

namespace Sys2Proof.Machine

open Sys2Proof.Config

/-- The timer condition T (60_exceptions.md R224). Under the option ADMIT_ONCE_PER_COUNT it holds at most once for a
count (00_scope.md R6, D16; log entry 7). -/
def timerDue (s : State) : Bool :=
  decide (s.instrCount ≠ 0) && (decide (s.instrCount % s.params.quantum = 0) &&
    !(s.params.admitOnce && decide (s.timerServedAt = some s.instrCount)))

/-- Record that T fired at this count; the record is kept only under ADMIT_ONCE_PER_COUNT (log entry 7). -/
def timerServed (s : State) : State :=
  if s.params.admitOnce then { s with timerServedAt := some s.instrCount } else s

/-- `AdmissionCheck()` (60_exceptions.md R227): true is ENTER, false is NONE. -/
def admissionCheck (s : State) : Act Bool :=
  match s.mode with
  | .kernel =>
    if timerDue s then
      if cntMax ≤ s.pending then raise (.counterOverflow s.pc) s
      else .ok false (timerServed { s with pending := s.pending + 1 })
    else .ok false s
  | .user =>
    if timerDue s then .ok true (timerServed { s with pending := s.pending - 1 })
    else if 0 < s.pending then .ok true { s with pending := s.pending - 1 }
    else .ok false s

/-- A timer-interrupt entry: the saved PC is that of the next instruction to fetch (60_exceptions.md R231). -/
def timerEntry (s : State) : Out := trapEntry timerVector s.pc s

end Sys2Proof.Machine
end

