-- ==== Sys2Proof/Machine/Cycle.lean ====
section
/-! DEFINITION. One instruction cycle (30_encoding.md R72), and the placing of one instruction where the next cycle
fetches it. -/

namespace Sys2Proof.Machine

open Sys2Proof.Config

/-- `Cycle()` (30_encoding.md R72): the admission check, and then either a timer-interrupt entry or the fetch and
execution of one instruction. -/
def cycle (s : State) : Out :=
  (admissionCheck s).finish fun enter t =>
    match enter with
    | true => timerEntry t
    | false => (fetchInstr t).finish fun i u => exec i u

/-- Write `v` to the cell that the word `a` names; an address that names no cell changes nothing. -/
def placeWord (m : Mem) (a v : Word) : Mem := if inRange a then m.write a.toNat v else m

/-- The two words of an instruction, numbered as spec/opcode_table.json numbers its bits, placed at PC. -/
def placeInstr (s : State) (nbits w : Nat) : State :=
  let bits := w % 2 ^ nbits
  { s with
    mem := placeWord (placeWord s.mem s.pc (BitVec.ofNat 32 bits)) (wrap (s.pc.toInt + 1))
      (BitVec.ofNat 32 (bits / 2 ^ 32)) }

end Sys2Proof.Machine
end

