-- ==== Sys2Proof/Machine/Step.lean ====
section
/-! DEFINITION. One step of the machine: one instruction cycle of a running CORE (30_encoding.md R72,
70_reset_and_hazards.md R269). -/

namespace Sys2Proof.Machine

/-- One step. A run that has ended takes no further cycle (10_state.md R32); with launch parameters outside R6's
ranges there is no run (60_exceptions.md R248). -/
def step (s : State) : Host.Outcome State Fault Refusal :=
  match s.status with
  | .running => if s.params.ok then cycle s else .refused .badLaunch
  | .halted => .fault .runHalted
  | .faulted _ => .fault .runFaulted

/-- `s` with one instruction of `nbits` bits `w` stored at PC, where the next cycle fetches (the operand cell is
written too, with zeros where the instruction has no bits). It stands for the load of a program (log entry 13). -/
def State.withFetchWord (s : State) (nbits w : Nat) : State := placeInstr s nbits w

end Sys2Proof.Machine
end

