-- ==== Sys2Proof/Machine/Launch.lean ====
section
/-! DEFINITION. The host's part before reset: loading the program image (70_reset_and_hazards.md R266) and checking
the configuration (60_exceptions.md R248). A program reaches the machine only this way (log entry 13). -/

namespace Sys2Proof.Machine

open Sys2Proof.Config

/-- A line of the program image (70_reset_and_hazards.md R266), already classified: reading its text is outside the
CORE (00_scope.md R5; log entry 15). -/
inductive ImageLine where
  /-- `.N`: the next load address is N. -/
  | loadAt (n : Nat)
  /-- A line with an integer: it is loaded at the load address, which advances by one. -/
  | value (v : Word)
  /-- Any other line. -/
  | comment
  deriving DecidableEq, Repr

/-- Load the lines from load address `next` on, over the contents `m`; none if a value has no cell to go to, which
the model takes as a malformed image (DEDUCED; log entry 15). -/
def loadImage : List ImageLine → Nat → Mem → Option Mem
  | [], _, m => some m
  | .loadAt n :: rest, _, m => loadImage rest n m
  | .value v :: rest, next, m => if next < memSize then loadImage rest (next + 1) (m.write next v) else none
  | .comment :: rest, next, m => loadImage rest next m

/-- What a launch gives: a machine right after reset, or no run at all, with a fault record and an exit status. -/
inductive StartResult where
  | started (s : State)
  | noRun (r : FaultRecord) (exitStatus : Int)
  deriving DecidableEq, Repr

/-- The launch (60_exceptions.md R248, 70_reset_and_hazards.md R261): with a quantum below 1, or an image that is
missing or malformed, no run starts (ConfigError); otherwise the image is loaded over `l.image`, which supplies the
cells it does not name (R266, D14), and the machine is reset. -/
def startUp (quantum : Int) (image : Option (List ImageLine)) (l : Launch) : StartResult :=
  if quantum < 1 then .noRun .configError l.params.exitFail
  else
    match image with
    | none => .noRun .configError l.params.exitFail
    | some lines =>
      match loadImage lines 0 l.image with
      | none => .noRun .configError l.params.exitFail
      | some m => .started (State.boot { l with image := m, params := { l.params with quantum := quantum.toNat } })

end Sys2Proof.Machine
end

