-- ==== Sys2Proof/Safety.lean ====
section
/-! DEFINITION. The terms claims are stated in: what a run shows, when the channel is ready, the state a fatal fault
leaves, the invariant of the machine, and which instruction writes what. -/

namespace Sys2Proof.Machine

open Sys2Proof.Config

/-- The observation of a run (60_exceptions.md R242): status with the fault record, exit status, output stream and
request trace. -/
structure Observation where
  status : RunStatus
  exitStatus : Option Int
  out : List OutEvent
  trace : List Request
  deriving DecidableEq, Repr

/-- What a state shows of its run (60_exceptions.md R242). -/
def State.observation (s : State) : Observation where
  status := s.status
  exitStatus := s.exitStatus
  out := s.out
  trace := s.trace

/-- Both protocol FSMs are where they stand between two requests of a running CORE (20_memory.md R51, R55). -/
abbrev Ready (s : State) : Prop := s.cpu = .idle ∧ s.store = .serving

/-- The state the fatal sequence leaves when it starts at `s`: nothing of `s` is undone (60_exceptions.md R239,
R240). -/
def faultedState (r : FaultRecord) (s : State) : State :=
  { s with
    status := .faulted r
    trace := s.trace ++ [.shutdown]
    cpu := .closed
    store := .terminated }

/-- A running CORE between two cycles, with launch parameters in their ranges. -/
abbrev Runs (s : State) : Prop := s.status = .running ∧ s.params.ok = true ∧ Ready s

/-- The timer condition T of 60_exceptions.md R224, as the rule writes it. -/
abbrev TimerT (s : State) : Prop := s.instrCount ≠ 0 ∧ s.instrCount % s.params.quantum = 0

/-- The word names a cell: its signed value lies in 0..1999 (00_scope.md R9, 20_memory.md R40). -/
abbrev Cell (a : Word) : Prop := 0 ≤ a.toInt ∧ a.toInt ≤ 1999

/-- The condition of the protection check, as 20_memory.md R44 writes it. -/
abbrev Violation (s : State) (a : Word) : Prop := s.mode = .user ∧ 1000 ≤ a.toInt

/-- The address of a request is a cell (00_scope.md R9); `Shutdown` has none. -/
def Request.InRange : Request → Prop
  | .read a => Cell a
  | .write a _ => Cell a
  | .shutdown => True

/-- The memory that the writes of a request trace make of `m`, in the order sent (20_memory.md R60, R62). -/
def replay (m : Mem) : List Request → Mem
  | [] => m
  | .read _ :: rest => replay m rest
  | .write a v :: rest => replay (m.write a.toNat v) rest
  | .shutdown :: rest => replay m rest

/-- A fault record agrees with the state it left, as the table of 60_exceptions.md R238 says: the recorded `pc` and
`mode` are the state's, and the condition "raised when" holds. Codes 7 and 8 are never recorded by a running CORE. -/
def RecordFits (s : State) : FaultRecord → Prop
  | .memoryViolation addr mode pc => mode = .user ∧ Violation s addr ∧ pc = s.pc
  | .illegalInstruction ir pc => decodeOpcode ir.toNat = none ∧ ir = s.ir ∧ pc = s.pc
  | .outOfRange addr mode pc => ¬ Cell addr ∧ mode = s.mode ∧ pc = s.pc
  | .illegalPort port pc => port.toInt ≠ 1 ∧ port.toInt ≠ 2 ∧ s.ir = 9 ∧ pc = s.pc
  | .kernelSyscall pc => s.mode = .kernel ∧ s.ir = 29 ∧ pc = s.pc
  | .counterOverflow pc => (s.instrCount = cntMax ∨ s.pending = cntMax) ∧ pc = s.pc
  | .protocolError => False
  | .configError => False

/-- The invariant of the machine: memory in canonical form (10_state.md R30); the counters in range (R28, R29); while
the status is Running the protocol is between requests and no Shutdown was sent, and afterwards both FSMs have ended
and Shutdown was sent once, last (20_memory.md R53, R58); every request has an address in 0..1999 (00_scope.md R9);
and a fault record fits the state it left (60_exceptions.md R238). -/
structure Inv (s : State) : Prop where
  memWf : s.mem.Wf
  instrCountLe : s.instrCount ≤ cntMax
  pendingLe : s.pending ≤ cntMax
  whileRunning : s.status = .running → Ready s ∧ Request.shutdown ∉ s.trace
  afterEnd : s.status ≠ .running → s.cpu = .closed ∧ s.store = .terminated ∧
    ∃ sent, s.trace = sent ++ [.shutdown] ∧ Request.shutdown ∉ sent
  traceInRange : ∀ r ∈ s.trace, r.InRange
  recordFits : ∀ r, s.status = .faulted r → RecordFits s r

/-! ## The write columns of 10_state.md R36 -/

/-- What an instruction's row of the access table can name as written, besides PC: AC, X, Y, SP, the mode, memory, the
output stream; and the model's own count of draws. -/
inductive Piece where
  | ac
  | x
  | y
  | sp
  | mode
  | mem
  | out
  | draws
  deriving DecidableEq, Repr

/-- What a copy writes: `d` with the pair's COPY_DIR at its default, `e` with the pair turned round (D3). -/
def copyTarget (dir : CopyDir) (d e : Piece) : List Piece :=
  match dir with
  | .evenWritesRegister => [d]
  | .evenWritesAc => [e]

/-- The write columns of 10_state.md R36, read by instruction; 29 has those of trap entry. -/
def written (p : Params) (i : Instr) : List Piece :=
  match i with
  | .loadValue _ => [.ac]
  | .loadAddr _ => [.ac]
  | .loadInd _ => [.ac]
  | .loadIdxX _ => [.ac]
  | .loadIdxY _ => [.ac]
  | .loadSpX => [.ac]
  | .store _ => [.mem]
  | .get => [.ac, .draws]
  | .put _ => [.out]
  | .addX => [.ac]
  | .addY => [.ac]
  | .subX => [.ac]
  | .subY => [.ac]
  | .copyToX => copyTarget p.copyDirX .x .ac
  | .copyFromX => copyTarget p.copyDirX .ac .x
  | .copyToY => copyTarget p.copyDirY .y .ac
  | .copyFromY => copyTarget p.copyDirY .ac .y
  | .copyToSp => copyTarget p.copyDirSp .sp .ac
  | .copyFromSp => copyTarget p.copyDirSp .ac .sp
  | .jump _ => []
  | .jumpIfEqual _ => []
  | .jumpIfNotEqual _ => []
  | .call _ => [.sp, .mem]
  | .ret => [.sp]
  | .incX => [.x]
  | .decX => [.x]
  | .push => [.sp, .mem]
  | .pop => [.ac, .sp]
  | .int => [.sp, .mode, .mem]
  | .iret => [.sp, .mode]
  | .endRun => []

/-- The cell addresses an instruction stores to, computed from the state it runs in as its meaning computes them:
the operand for 7, SP for 23 and 27, the two top cells of the system stack for 29. -/
def storedCells (i : Instr) (s : State) : List Nat :=
  match i with
  | .loadValue _ => []
  | .loadAddr _ => []
  | .loadInd _ => []
  | .loadIdxX _ => []
  | .loadIdxY _ => []
  | .loadSpX => []
  | .store a => [a.toNat]
  | .get => []
  | .put _ => []
  | .addX => []
  | .addY => []
  | .subX => []
  | .subY => []
  | .copyToX => []
  | .copyFromX => []
  | .copyToY => []
  | .copyFromY => []
  | .copyToSp => []
  | .copyFromSp => []
  | .jump _ => []
  | .jumpIfEqual _ => []
  | .jumpIfNotEqual _ => []
  | .call _ => [s.sp.toNat]
  | .ret => []
  | .incX => []
  | .decX => []
  | .push => [s.sp.toNat]
  | .pop => []
  | .int => [1999, 1998]
  | .iret => []
  | .endRun => []

/-! ## Shapes shared by several statements -/

/-- What an instruction does that loads the checked effective address `a` into AC (40_load_store.md R101, R103 to
R105): MemoryViolation first, then OutOfRange, else AC takes the cell, PC advances, and nothing else changes but the
request trace. -/
def LoadsFrom (i : Instr) (s : State) (a : Word) : Prop :=
  (Violation s a → exec i s = .next (faultedState (.memoryViolation a .user s.pc) s)) ∧
  (¬ Violation s a → ¬ Cell a → exec i s = .next (faultedState (.outOfRange a s.mode s.pc) s)) ∧
  (¬ Violation s a → Cell a → exec i s = .next
    { s with ac := s.mem.read a.toNat, pc := wrap (s.pc.toInt + 1), trace := s.trace ++ [.read a] })

/-- The opcode word `w` is the whole of the one-word instruction `i`: a cycle that fetches `w` is the execution of `i`
with the fetch counted, IR written and the read recorded, and PC at the opcode word (30_encoding.md R71 to R73, R77). -/
def RunsAlone (w : Word) (i : Instr) : Prop :=
  ∀ s t : State, Runs s → admissionCheck s = .ok false t → Cell t.pc → t.instrCount < cntMax →
    t.mem.read t.pc.toNat = w →
    step s = exec i
      { t with
        ir := w
        instrCount := t.instrCount + 1
        trace := t.trace ++ [.read t.pc] }

/-- The opcode word `w` begins the two-word instructions `f v`: a cycle that fetches `w` reads the operand at the next
word, and is the execution of `f` of that operand with PC at the operand word; when that word is no cell, the cycle ends
with OutOfRange there, the opcode fetched and counted, and nothing else done (30_encoding.md R71 to R74, R77). -/
def RunsWithOperand (w : Word) (f : Word → Instr) : Prop :=
  ∀ s t : State, Runs s → admissionCheck s = .ok false t → Cell t.pc → t.instrCount < cntMax →
    t.mem.read t.pc.toNat = w →
    (Cell (wrap (t.pc.toInt + 1)) →
      step s = exec (f (t.mem.read (wrap (t.pc.toInt + 1)).toNat))
        { t with
          pc := wrap (t.pc.toInt + 1)
          ir := w
          instrCount := t.instrCount + 1
          trace := t.trace ++ [.read t.pc, .read (wrap (t.pc.toInt + 1))] }) ∧
    (¬ Cell (wrap (t.pc.toInt + 1)) →
      step s = .next (faultedState (.outOfRange (wrap (t.pc.toInt + 1)) t.mode (wrap (t.pc.toInt + 1)))
        { t with
          pc := wrap (t.pc.toInt + 1)
          ir := w
          instrCount := t.instrCount + 1
          trace := t.trace ++ [.read t.pc] }))

end Sys2Proof.Machine
end

