-- ==== Sys2Proof/Certificates/Slice0/Obligations.lean ====
section
/-! DEFINITION. The statements for the provers. Each says what the spec's rules say of the machine; the rule is named
in its docstring. A statement about a single instruction is about `exec` in the state the cycle hands it: for `F2` the
operand has been read and PC is at the operand word (30_encoding.md R74). -/

open Sys2Proof Sys2Proof.Config Sys2Proof.Machine

/-! ## Reset and launch -/

/-- 10_state.md R37, 70_reset_and_hazards.md R260: reset, for every launch. The spec leaves AC0, X0, Y0 and MEM0 open;
they come from the launch. -/
def Obligations.ResetHoldsTheTabledValues : Prop :=
  ∀ l : Launch,
    (State.boot l).pc = 0 ∧ (State.boot l).sp = 999 ∧ (State.boot l).mode = .user ∧
    (State.boot l).instrCount = 0 ∧ (State.boot l).pending = 0 ∧ (State.boot l).ac = l.ac0 ∧
    (State.boot l).x = l.x0 ∧ (State.boot l).y = l.y0 ∧ (State.boot l).ir = 0 ∧
    (∀ a, (State.boot l).mem.read a = l.image.read a) ∧ (State.boot l).out = [] ∧
    (State.boot l).status = .running ∧ (State.boot l).cpu = .idle ∧ (State.boot l).store = .serving ∧
    (State.boot l).trace = [] ∧ (State.boot l).params = l.params

/-- 60_exceptions.md R248 (decision D24): with a quantum below 1, or an image that is missing or malformed, no run
starts, the record is ConfigError and the exit status is EXIT_FAIL; otherwise the machine is reset with the loaded
image and that quantum. That a value past cell 1999 makes an image malformed is the model's choice (log entry 15). -/
def Obligations.LaunchStartsOnlyWithGoodConfiguration : Prop :=
  ∀ (q : Int) (l : Launch),
    (q < 1 → ∀ image, startUp q image l = .noRun .configError l.params.exitFail) ∧
    (startUp q none l = .noRun .configError l.params.exitFail) ∧
    (∀ lines, loadImage lines 0 l.image = none → startUp q (some lines) l = .noRun .configError l.params.exitFail) ∧
    (1 ≤ q → ∀ lines m, loadImage lines 0 l.image = some m →
      startUp q (some lines) l =
        .started (State.boot { l with image := m, params := { l.params with quantum := q.toNat } }))

/-- 70_reset_and_hazards.md R266: value lines that follow a relocation marker `.n` are loaded into consecutive cells
from n on, comment lines are ignored, and every other cell keeps what it held. -/
def Obligations.ImageLoadsValuesAtConsecutiveCells : Prop :=
  ∀ (vs : List Word) (n : Nat) (m : Mem), m.Wf → n + vs.length ≤ 2000 →
    ∃ m', loadImage (.loadAt n :: (vs.map fun v => [ImageLine.value v, ImageLine.comment]).flatten) 0 m = some m' ∧
      (∀ k (h : k < vs.length), m'.read (n + k) = vs[k]) ∧
      (∀ a, a < n ∨ n + vs.length ≤ a → m'.read a = m.read a)

/-! ## Encoding -/

/-- 30_encoding.md R70, R71, R77: decoding and encoding agree. A sequence of words decodes to `i` exactly when it
begins with the words of `i`, and the decoder leaves the words behind them. -/
def Obligations.DecodeInvertsEncode : Prop :=
  ∀ (ws : List Word) (i : Instr) (rest : List Word), decode ws = .ok (i, rest) ↔ ws = encode i ++ rest

/-- 30_encoding.md R76, R78 (decision D5): the decoder rejects an opcode word as illegal exactly when its value is not
one of 1..30 and 50, whatever follows it. -/
def Obligations.DecodeRejectsExactlyTheOtherWords : Prop :=
  ∀ (w : Word) (rest : List Word),
    decode (w :: rest) = .error (.illegalOpcode w) ↔ ¬ ((1 ≤ w.toInt ∧ w.toInt ≤ 30) ∨ w.toInt = 50)

/-- 30_encoding.md R70, R77: some words, written out from the table, and what they stand for. -/
def Obligations.TableWordsDecodeToTheirInstructions : Prop :=
  decode [0x00000001, 0xFFFFFFF9] = .ok (.loadValue (-7), []) ∧
  decode [0x00000007, 0x0000012C] = .ok (.store 300, []) ∧
  decode [0x00000008] = .ok (.get, []) ∧
  decode [0x00000009, 0x00000002] = .ok (.put 2, []) ∧
  decode [0x0000000C] = .ok (.subX, []) ∧
  decode [0x00000013] = .ok (.copyFromSp, []) ∧
  decode [0x00000017, 0x0000000A] = .ok (.call 10, []) ∧
  decode [0x0000001B] = .ok (.push, []) ∧
  decode [0x00000032] = .ok (.endRun, []) ∧
  decodeTableWord 64 0x000004B000000002 = some (.loadAddr 1200)

/-! ## The instruction cycle -/

/-- 30_encoding.md R72, R73, R74: when the admission check answers NONE with state `t` and the words at PC decode to
`i`, the step is `exec i` in `t` with the opcode word counted and held in IR, the reads recorded, and PC at the operand
word for `F2`. -/
def Obligations.StepRunsTheDecodedInstruction : Prop :=
  ∀ (s t : State) (i : Instr), Runs s → admissionCheck s = .ok false t → Cell t.pc → t.instrCount < cntMax →
    (decode [t.mem.read t.pc.toNat] = .ok (i, []) →
      step s = exec i
        { t with
          ir := t.mem.read t.pc.toNat
          instrCount := t.instrCount + 1
          trace := t.trace ++ [.read t.pc] }) ∧
    (∀ v, decode [t.mem.read t.pc.toNat, v] = .ok (i, []) → Cell (wrap (t.pc.toInt + 1)) →
      t.mem.read (wrap (t.pc.toInt + 1)).toNat = v →
      step s = exec i
        { t with
          pc := wrap (t.pc.toInt + 1)
          ir := t.mem.read t.pc.toNat
          instrCount := t.instrCount + 1
          trace := t.trace ++ [.read t.pc, .read (wrap (t.pc.toInt + 1))] })

/-- 30_encoding.md R73, 60_exceptions.md R239 to R241 (decisions D6, D19): a fetch outside 0..1999 raises OutOfRange;
a fetch at the largest count raises CounterOverflow after the read. Neither changes `instruction_count` or IR. -/
def Obligations.FaultingFetchKeepsCountAndIr : Prop :=
  ∀ s t : State, Runs s → admissionCheck s = .ok false t →
    (¬ Cell t.pc → step s = .next (faultedState (.outOfRange t.pc t.mode t.pc) t)) ∧
    (Cell t.pc → t.instrCount = cntMax →
      step s = .next (faultedState (.counterOverflow t.pc) { t with trace := t.trace ++ [.read t.pc] }))

/-- 30_encoding.md R76 (decisions D5, D37): an opcode word other than 1..30 and 50 raises IllegalInstruction with IR
and PC, after it was counted and before any operand read. -/
def Obligations.OtherOpcodeWordRaisesIllegalInstruction : Prop :=
  ∀ s t : State, Runs s → admissionCheck s = .ok false t → Cell t.pc → t.instrCount < cntMax →
    ¬ ((1 ≤ (t.mem.read t.pc.toNat).toInt ∧ (t.mem.read t.pc.toNat).toInt ≤ 30) ∨
      (t.mem.read t.pc.toNat).toInt = 50) →
    step s = .next (faultedState (.illegalInstruction (t.mem.read t.pc.toNat) t.pc)
      { t with
        ir := t.mem.read t.pc.toNat
        instrCount := t.instrCount + 1
        trace := t.trace ++ [.read t.pc] })

/-- 10_state.md R32 (decisions D20, D28): a state whose status is not Running takes no further cycle, and its exit
status is 0 when Halted and EXIT_FAIL when Faulted. That the step answers a named fault there, and a named refusal
for parameters outside R6's ranges, is the model's choice (log entries 9 and 12). -/
def Obligations.EndedRunTakesNoCycle : Prop :=
  ∀ s : State,
    (s.status = .halted → step s = .fault .runHalted ∧ s.exitStatus = some 0) ∧
    (∀ r, s.status = .faulted r → step s = .fault .runFaulted ∧ s.exitStatus = some s.params.exitFail) ∧
    (s.status = .running → s.exitStatus = none ∧ (s.params.ok = false → step s = .refused .badLaunch))

/-! ## Timer, admission and trap entry -/

/-- 60_exceptions.md R224: T is "a nonzero multiple of the configured timer quantum" over the count, with
ADMIT_ONCE_PER_COUNT at its default. -/
def Obligations.TimerFiresAtNonzeroMultiplesOfTheQuantum : Prop :=
  ∀ s : State, s.params.admitOnce = false →
    (timerDue s = true ↔ s.instrCount ≠ 0 ∧ ∃ k, s.instrCount = k * s.params.quantum)

/-- 60_exceptions.md R226, R227, R229 (decisions D16, D19): the admission check with ADMIT_ONCE_PER_COUNT at its
default, in both modes, with and without T and a pending interrupt. -/
def Obligations.AdmissionCheckQueuesOrEnters : Prop :=
  ∀ s : State, s.params.admitOnce = false → s.cpu = .idle →
    (s.mode = .kernel → TimerT s → s.pending < cntMax →
      admissionCheck s = .ok false { s with pending := s.pending + 1 }) ∧
    (s.mode = .kernel → TimerT s → s.pending = cntMax →
      admissionCheck s = .stop (.next (faultedState (.counterOverflow s.pc) s))) ∧
    (s.mode = .kernel → ¬ TimerT s → admissionCheck s = .ok false s) ∧
    (s.mode = .user → (TimerT s ∨ 0 < s.pending) →
      admissionCheck s = .ok true { s with pending := s.pending - 1 }) ∧
    (s.mode = .user → ¬ TimerT s → s.pending = 0 → admissionCheck s = .ok false s)

/-- Decision D16 (log entry 7, the model's reading of the option): with ADMIT_ONCE_PER_COUNT on, T fires at a count
it has not fired at, which is then recorded, and not again while the count stands. -/
def Obligations.AdmitOnceFiresOncePerCount : Prop :=
  ∀ s : State, s.params.admitOnce = true →
    (s.timerServedAt = some s.instrCount → timerDue s = false) ∧
    (s.mode = .user → TimerT s → s.timerServedAt ≠ some s.instrCount →
      admissionCheck s =
        .ok true { s with pending := s.pending - 1, timerServedAt := some s.instrCount }) ∧
    (s.mode = .kernel → TimerT s → s.timerServedAt ≠ some s.instrCount → s.pending < cntMax →
      admissionCheck s =
        .ok false { s with pending := s.pending + 1, timerServedAt := some s.instrCount })

/-- 60_exceptions.md R230, R231 (decisions D17, D18): the timer-interrupt entry, as one whole step: kernel mode, PC
1000, SP 1997, the old SP at 1999, the PC of the next instruction at 1998, nothing fetched, one pending interrupt
consumed. -/
def Obligations.TimerEntryIsOneWholeStep : Prop :=
  ∀ s : State, Runs s → s.mode = .user → s.params.admitOnce = false → (TimerT s ∨ 0 < s.pending) →
    step s = .next
      { s with
        mode := .kernel
        pc := 1000
        sp := 1997
        pending := s.pending - 1
        mem := (s.mem.write 1999 s.sp).write 1998 s.pc
        trace := s.trace ++ [.write 1999 s.sp, .write 1998 s.pc] }

/-- 60_exceptions.md R233: a timer-interrupt entry followed at once by the opcode 30 at 1000 restores PC, SP and user
mode, and leaves AC, X, Y, the output and every cell but 1998 and 1999 as they were; the count rose by 1. -/
def Obligations.TimerEntryThenIRetRestores : Prop :=
  ∀ s : State, Runs s → s.mem.Wf → s.mode = .user → s.params.admitOnce = false → (TimerT s ∨ 0 < s.pending) →
    s.instrCount < cntMax → s.pending ≤ cntMax → s.mem.read 1000 = 30 →
    ∃ t u, step s = .next t ∧ step t = .next u ∧ u.status = .running ∧ u.mode = .user ∧ u.pc = s.pc ∧ u.sp = s.sp ∧
      u.ac = s.ac ∧ u.x = s.x ∧ u.y = s.y ∧ u.out = s.out ∧ u.instrCount = s.instrCount + 1 ∧
      ∀ a, a ≠ 1998 → a ≠ 1999 → u.mem.read a = s.mem.read a

/-- 60_exceptions.md R228 items 1 and 2: when T holds at the entry, the handler's first cycle queues an interrupt, and
the first user cycle after its opcode 30 enters again before any user instruction runs. -/
def Obligations.TimerEntryReentersOnceAfterIRet : Prop :=
  ∀ s : State, Runs s → s.mem.Wf → s.mode = .user → s.params.admitOnce = false → TimerT s →
    s.instrCount < cntMax → s.pending ≤ cntMax → s.mem.read 1000 = 30 →
    ∃ t u v, step s = .next t ∧ step t = .next u ∧ step u = .next v ∧ u.mode = .user ∧ u.pending = s.pending - 1 + 1 ∧
      v.mode = .kernel ∧ v.pc = 1000 ∧ v.mem.read 1998 = s.pc ∧ v.mem.read 1999 = s.sp

/-- 60_exceptions.md R228 item 4: with Q = 1, once something was fetched, a user cycle is a timer entry and fetches
nothing, and a kernel cycle that goes on queues one interrupt. -/
def Obligations.QuantumOneNeverRunsUserInstruction : Prop :=
  ∀ s t : State, Runs s → s.params.quantum = 1 → s.params.admitOnce = false → s.instrCount ≠ 0 → step s = .next t →
    (s.mode = .user → t.mode = .kernel ∧ t.pc = 1000 ∧ t.instrCount = s.instrCount ∧ t.ir = s.ir) ∧
    (s.mode = .kernel → t.status = .running → t.pending = s.pending + 1)

/-- 60_exceptions.md R232, R233: a system call followed at once by the opcode 30 at 1500 restores the address after
the opcode 29 as PC, the SP before the call, and user mode. -/
def Obligations.SyscallThenIRetReturnsAfterTheCall : Prop :=
  ∀ s : State, Runs s → s.mem.Wf → s.mode = .user → admissionCheck s = .ok false s → s.params.admitOnce = false →
    s.instrCount + 1 < cntMax → s.pending < cntMax → Cell s.pc → s.mem.read s.pc.toNat = 29 → s.mem.read 1500 = 30 →
    ∃ t u, step s = .next t ∧ step t = .next u ∧ t.mode = .kernel ∧ t.pc = 1500 ∧ t.sp = 1997 ∧
      u.status = .running ∧ u.mode = .user ∧ u.pc = wrap (s.pc.toInt + 1) ∧ u.sp = s.sp ∧
      u.ac = s.ac ∧ u.x = s.x ∧ u.y = s.y ∧ u.instrCount = s.instrCount + 2

/-! ## Loads and stores -/

/-- 40_load_store.md R100: LoadValue. -/
def Obligations.LoadValueLoadsItsOperand : Prop :=
  (∀ v s, exec (.loadValue v) s = .next { s with ac := v, pc := wrap (s.pc.toInt + 1) }) ∧ RunsWithOperand 1 .loadValue

/-- 40_load_store.md R101: LoadAddr. -/
def Obligations.LoadAddrLoadsTheCheckedCell : Prop :=
  (∀ a s, Ready s → LoadsFrom (.loadAddr a) s a) ∧ RunsWithOperand 2 .loadAddr

/-- 40_load_store.md R102: LoadInd; everything about the first address comes before anything about the second. -/
def Obligations.LoadIndChecksBothAddressesInOrder : Prop :=
  (∀ a s, Ready s →
    (Violation s a → exec (.loadInd a) s = .next (faultedState (.memoryViolation a .user s.pc) s)) ∧
    (¬ Violation s a → ¬ Cell a → exec (.loadInd a) s = .next (faultedState (.outOfRange a s.mode s.pc) s)) ∧
    (¬ Violation s a → Cell a → Violation s (s.mem.read a.toNat) →
      exec (.loadInd a) s = .next (faultedState (.memoryViolation (s.mem.read a.toNat) .user s.pc)
        { s with trace := s.trace ++ [.read a] })) ∧
    (¬ Violation s a → Cell a → ¬ Violation s (s.mem.read a.toNat) → ¬ Cell (s.mem.read a.toNat) →
      exec (.loadInd a) s = .next (faultedState (.outOfRange (s.mem.read a.toNat) s.mode s.pc)
        { s with trace := s.trace ++ [.read a] })) ∧
    (¬ Violation s a → Cell a → ¬ Violation s (s.mem.read a.toNat) → Cell (s.mem.read a.toNat) →
      exec (.loadInd a) s = .next
        { s with
          ac := s.mem.read (s.mem.read a.toNat).toNat
          pc := wrap (s.pc.toInt + 1)
          trace := s.trace ++ [.read a, .read (s.mem.read a.toNat)] })) ∧
  RunsWithOperand 3 .loadInd

/-- 40_load_store.md R103: LoadIdxX; the checks apply to the wrapped sum. -/
def Obligations.LoadIdxXLoadsAtBasePlusX : Prop :=
  (∀ b s, Ready s → LoadsFrom (.loadIdxX b) s (wrap (b.toInt + s.x.toInt))) ∧ RunsWithOperand 4 .loadIdxX

/-- 40_load_store.md R104: LoadIdxY; the checks apply to the wrapped sum. -/
def Obligations.LoadIdxYLoadsAtBasePlusY : Prop :=
  (∀ b s, Ready s → LoadsFrom (.loadIdxY b) s (wrap (b.toInt + s.y.toInt))) ∧ RunsWithOperand 5 .loadIdxY

/-- 40_load_store.md R105: LoadSpX; SP is not changed. -/
def Obligations.LoadSpXLoadsAtSpPlusXPlusOne : Prop :=
  (∀ s, Ready s → LoadsFrom .loadSpX s (wrap (s.sp.toInt + s.x.toInt + 1))) ∧ RunsAlone 6 .loadSpX

/-- 40_load_store.md R106: Store, unchecked in both modes, with CHECK_STORES at its default. -/
def Obligations.StoreWritesItsCellUnchecked : Prop :=
  (∀ a s, Ready s → s.params.checkStores = false →
    (Cell a → exec (.store a) s = .next
      { s with
        mem := s.mem.write a.toNat s.ac
        pc := wrap (s.pc.toInt + 1)
        trace := s.trace ++ [.write a s.ac] }) ∧
    (¬ Cell a → exec (.store a) s = .next (faultedState (.outOfRange a s.mode s.pc) s))) ∧
  RunsWithOperand 7 .store

/-- Decision D7 (log entry 6, the model's reading of the option): with CHECK_STORES on, a user-mode store, push or call
that writes at 1000 or above raises MemoryViolation and writes nothing; any other acts as with the option off. -/
def Obligations.CheckStoresOptionRaisesMemoryViolation : Prop :=
  ∀ s, Ready s → s.params.checkStores = true →
    (∀ a, (Violation s a → exec (.store a) s = .next (faultedState (.memoryViolation a .user s.pc) s)) ∧
      (¬ Violation s a → Cell a → exec (.store a) s = .next
        { s with
          mem := s.mem.write a.toNat s.ac
          pc := wrap (s.pc.toInt + 1)
          trace := s.trace ++ [.write a s.ac] }) ∧
      (¬ Violation s a → ¬ Cell a → exec (.store a) s = .next (faultedState (.outOfRange a s.mode s.pc) s))) ∧
    (Violation s s.sp → exec .push s = .next (faultedState (.memoryViolation s.sp .user s.pc) s) ∧
      ∀ t, exec (.call t) s = .next (faultedState (.memoryViolation s.sp .user s.pc) s)) ∧
    (¬ Violation s s.sp → Cell s.sp →
      exec .push s = .next
        { s with
          mem := s.mem.write s.sp.toNat s.ac
          sp := wrap (s.sp.toInt - 1)
          pc := wrap (s.pc.toInt + 1)
          trace := s.trace ++ [.write s.sp s.ac] } ∧
      ∀ t, exec (.call t) s = .next
        { s with
          mem := s.mem.write s.sp.toNat (wrap (s.pc.toInt + 1))
          sp := wrap (s.sp.toInt - 1)
          pc := t
          trace := s.trace ++ [.write s.sp (wrap (s.pc.toInt + 1))] }) ∧
    (¬ Violation s s.sp → ¬ Cell s.sp →
      exec .push s = .next (faultedState (.outOfRange s.sp s.mode s.pc) s) ∧
      ∀ t, exec (.call t) s = .next (faultedState (.outOfRange s.sp s.mode s.pc) s))

/-- 20_memory.md R57, R62, 95_test_vectors.md E8: a value stored by opcode 7 is what opcode 2 then loads. -/
def Obligations.StoreThenLoadReturnsTheValue : Prop :=
  ∀ a s, Ready s → s.mem.Wf → Cell a → ¬ Violation s a →
    ∃ t u, exec (.store a) s = .next t ∧ exec (.loadAddr a) t = .next u ∧ u.ac = s.ac ∧ u.mem = t.mem

/-- 20_memory.md R65: a fetch after a store to the same address returns the stored word. -/
def Obligations.StoreThenFetchSeesTheStoredWord : Prop :=
  ∀ a s, Ready s → s.mem.Wf → Cell a → (s.params.checkStores = false ∨ ¬ Violation s a) → s.instrCount < cntMax →
    ∃ t u, exec (.store a) s = .next t ∧ fetchOpcode { t with pc := a } = .ok s.ac u ∧ u.ir = s.ac ∧
      u.instrCount = s.instrCount + 1

/-! ## Random value and output -/

/-- 41_random_output.md R120 (decision D12): Get writes some value of 1..100 to AC; a draw is taken. `draws` is the
model's own counter (log entry 8). -/
def Obligations.GetWritesAValueFromOneToHundred : Prop :=
  (∀ s, ∃ v : Word, 1 ≤ v.toInt ∧ v.toInt ≤ 100 ∧
    exec .get s = .next { s with ac := v, pc := wrap (s.pc.toInt + 1), draws := s.draws + 1 }) ∧
  RunsAlone 8 .get

/-- 41_random_output.md R121 (decisions D10, D11): Put. -/
def Obligations.PutAppendsOneEventOrRaisesIllegalPort : Prop :=
  (∀ p s, s.cpu = .idle →
    (p = 1 → exec (.put p) s = .next { s with out := s.out ++ [.int s.ac], pc := wrap (s.pc.toInt + 1) }) ∧
    (p = 2 → exec (.put p) s = .next { s with out := s.out ++ [.char s.ac], pc := wrap (s.pc.toInt + 1) }) ∧
    (p ≠ 1 → p ≠ 2 → exec (.put p) s = .next (faultedState (.illegalPort p s.pc) s))) ∧
  RunsWithOperand 9 .put

/-- 10_state.md R31: the output stream starts empty, only opcode 9 appends to it, one event of AC at a time, and
nothing else changes it. -/
def Obligations.OutputGrowsOnlyByPut : Prop :=
  (∀ l, (State.boot l).out = []) ∧
  ∀ s t : State, step s = .next t →
    t.out = s.out ∨ (t.ir = 9 ∧ (t.out = s.out ++ [.int s.ac] ∨ t.out = s.out ++ [.char s.ac]))

/-! ## Arithmetic and register transfer -/

/-- 42_alu.md R131 to R136: the six arithmetic instructions; each result wraps (R130, decision D2), and nothing else
changes but PC. -/
def Obligations.ArithmeticWritesTheWrappedResult : Prop :=
  (∀ s : State,
    exec .addX s = .next { s with ac := wrap (s.ac.toInt + s.x.toInt), pc := wrap (s.pc.toInt + 1) } ∧
    exec .addY s = .next { s with ac := wrap (s.ac.toInt + s.y.toInt), pc := wrap (s.pc.toInt + 1) } ∧
    exec .subX s = .next { s with ac := wrap (s.ac.toInt - s.x.toInt), pc := wrap (s.pc.toInt + 1) } ∧
    exec .subY s = .next { s with ac := wrap (s.ac.toInt - s.y.toInt), pc := wrap (s.pc.toInt + 1) } ∧
    exec .incX s = .next { s with x := wrap (s.x.toInt + 1), pc := wrap (s.pc.toInt + 1) } ∧
    exec .decX s = .next { s with x := wrap (s.x.toInt - 1), pc := wrap (s.pc.toInt + 1) }) ∧
  RunsAlone 10 .addX ∧ RunsAlone 11 .addY ∧ RunsAlone 12 .subX ∧ RunsAlone 13 .subY ∧ RunsAlone 25 .incX ∧
  RunsAlone 26 .decX

/-- 43_register_transfer.md R150 to R155 (decision D3, the spec's own choice of direction): the six copies with
COPY_DIR at its default. -/
def Obligations.CopiesFollowTheDefaultDirection : Prop :=
  (∀ s : State,
    (s.params.copyDirX = .evenWritesRegister →
      exec .copyToX s = .next { s with x := s.ac, pc := wrap (s.pc.toInt + 1) } ∧
      exec .copyFromX s = .next { s with ac := s.x, pc := wrap (s.pc.toInt + 1) }) ∧
    (s.params.copyDirY = .evenWritesRegister →
      exec .copyToY s = .next { s with y := s.ac, pc := wrap (s.pc.toInt + 1) } ∧
      exec .copyFromY s = .next { s with ac := s.y, pc := wrap (s.pc.toInt + 1) }) ∧
    (s.params.copyDirSp = .evenWritesRegister →
      exec .copyToSp s = .next { s with sp := s.ac, pc := wrap (s.pc.toInt + 1) } ∧
      exec .copyFromSp s = .next { s with ac := s.sp, pc := wrap (s.pc.toInt + 1) })) ∧
  RunsAlone 14 .copyToX ∧ RunsAlone 15 .copyFromX ∧ RunsAlone 16 .copyToY ∧ RunsAlone 17 .copyFromY ∧
  RunsAlone 18 .copyToSp ∧ RunsAlone 19 .copyFromSp

/-- Decision D3 (COPY_DIR): with a pair turned round, its two codes change places. -/
def Obligations.CopiesFollowTheReversedDirection : Prop :=
  ∀ s : State,
    (s.params.copyDirX = .evenWritesAc →
      exec .copyToX s = .next { s with ac := s.x, pc := wrap (s.pc.toInt + 1) } ∧
      exec .copyFromX s = .next { s with x := s.ac, pc := wrap (s.pc.toInt + 1) }) ∧
    (s.params.copyDirY = .evenWritesAc →
      exec .copyToY s = .next { s with ac := s.y, pc := wrap (s.pc.toInt + 1) } ∧
      exec .copyFromY s = .next { s with y := s.ac, pc := wrap (s.pc.toInt + 1) }) ∧
    (s.params.copyDirSp = .evenWritesAc →
      exec .copyToSp s = .next { s with ac := s.sp, pc := wrap (s.pc.toInt + 1) } ∧
      exec .copyFromSp s = .next { s with sp := s.ac, pc := wrap (s.pc.toInt + 1) })

/-! ## Control transfer -/

/-- 44_control_transfer.md R161: Jump. -/
def Obligations.JumpSetsPcToItsOperand : Prop :=
  (∀ t s, exec (.jump t) s = .next { s with pc := t }) ∧ RunsWithOperand 20 .jump

/-- 44_control_transfer.md R162: JumpIfEqual; the operand is read whether or not the branch is taken; after Get it is
never taken. -/
def Obligations.JumpIfEqualBranchesOnZero : Prop :=
  (∀ t s, (s.ac = 0 → exec (.jumpIfEqual t) s = .next { s with pc := t }) ∧
    (s.ac ≠ 0 → exec (.jumpIfEqual t) s = .next { s with pc := wrap (s.pc.toInt + 1) })) ∧
  (∀ t s, ∃ u, exec .get s = .next u ∧ exec (.jumpIfEqual t) u = .next { u with pc := wrap (u.pc.toInt + 1) }) ∧
  RunsWithOperand 21 .jumpIfEqual

/-- 44_control_transfer.md R163: JumpIfNotEqual. -/
def Obligations.JumpIfNotEqualBranchesOnNonzero : Prop :=
  (∀ t s, (s.ac ≠ 0 → exec (.jumpIfNotEqual t) s = .next { s with pc := t }) ∧
    (s.ac = 0 → exec (.jumpIfNotEqual t) s = .next { s with pc := wrap (s.pc.toInt + 1) })) ∧
  RunsWithOperand 22 .jumpIfNotEqual

/-- 44_control_transfer.md R164: Call, with CHECK_STORES at its default. -/
def Obligations.CallPushesTheReturnAddressAndJumps : Prop :=
  (∀ t s, Ready s → s.params.checkStores = false →
    (Cell s.sp → exec (.call t) s = .next
      { s with
        mem := s.mem.write s.sp.toNat (wrap (s.pc.toInt + 1))
        sp := wrap (s.sp.toInt - 1)
        pc := t
        trace := s.trace ++ [.write s.sp (wrap (s.pc.toInt + 1))] }) ∧
    (¬ Cell s.sp → exec (.call t) s = .next (faultedState (.outOfRange s.sp s.mode s.pc) s))) ∧
  RunsWithOperand 23 .call

/-- 44_control_transfer.md R165: Ret; the pop is not protection-checked, and SP stays incremented when it faults. -/
def Obligations.RetPopsPc : Prop :=
  (∀ s, Ready s →
    (Cell (wrap (s.sp.toInt + 1)) → exec .ret s = .next
      { s with
        pc := s.mem.read (wrap (s.sp.toInt + 1)).toNat
        sp := wrap (s.sp.toInt + 1)
        trace := s.trace ++ [.read (wrap (s.sp.toInt + 1))] }) ∧
    (¬ Cell (wrap (s.sp.toInt + 1)) → exec .ret s = .next
      (faultedState (.outOfRange (wrap (s.sp.toInt + 1)) s.mode s.pc) { s with sp := wrap (s.sp.toInt + 1) }))) ∧
  RunsAlone 24 .ret

/-- 44_control_transfer.md R166: a Call followed at once by a Ret returns to the word after the Call's operand with SP
restored. -/
def Obligations.CallThenRetReturns : Prop :=
  ∀ target s, Ready s → s.mem.Wf → Cell s.sp → (s.params.checkStores = false ∨ ¬ Violation s s.sp) →
    ∃ t u, exec (.call target) s = .next t ∧ t.pc = target ∧ exec .ret t = .next u ∧
      u.pc = wrap (s.pc.toInt + 1) ∧ u.sp = s.sp

/-! ## Stack -/

/-- 45_stack.md R180: Push, with CHECK_STORES at its default. -/
def Obligations.PushWritesAcThenDecrementsSp : Prop :=
  (∀ s, Ready s → s.params.checkStores = false →
    (Cell s.sp → exec .push s = .next
      { s with
        mem := s.mem.write s.sp.toNat s.ac
        sp := wrap (s.sp.toInt - 1)
        pc := wrap (s.pc.toInt + 1)
        trace := s.trace ++ [.write s.sp s.ac] }) ∧
    (¬ Cell s.sp → exec .push s = .next (faultedState (.outOfRange s.sp s.mode s.pc) s))) ∧
  RunsAlone 27 .push

/-- 45_stack.md R181, 20_memory.md R47 (decision D7: the pop is not protection-checked): Pop. -/
def Obligations.PopIncrementsSpThenLoadsAc : Prop :=
  (∀ s, Ready s →
    (Cell (wrap (s.sp.toInt + 1)) → exec .pop s = .next
      { s with
        ac := s.mem.read (wrap (s.sp.toInt + 1)).toNat
        sp := wrap (s.sp.toInt + 1)
        pc := wrap (s.pc.toInt + 1)
        trace := s.trace ++ [.read (wrap (s.sp.toInt + 1))] }) ∧
    (¬ Cell (wrap (s.sp.toInt + 1)) → exec .pop s = .next
      (faultedState (.outOfRange (wrap (s.sp.toInt + 1)) s.mode s.pc) { s with sp := wrap (s.sp.toInt + 1) }))) ∧
  RunsAlone 28 .pop

/-- 45_stack.md R182: Push then Pop leaves AC and SP as they were and the value in the cell. -/
def Obligations.PushThenPopIsIdentity : Prop :=
  ∀ s, Ready s → s.mem.Wf → Cell s.sp → (s.params.checkStores = false ∨ ¬ Violation s s.sp) →
    ∃ t u, exec .push s = .next t ∧ exec .pop t = .next u ∧ u.ac = s.ac ∧ u.sp = s.sp ∧
      u.mem.read s.sp.toNat = s.ac

/-! ## System -/

/-- 46_system.md R190, 60_exceptions.md R230, R232 (decisions D8, D17, D18): Int in user mode is a trap entry to 1500
that saves the next address; in kernel mode it raises KernelSyscall. -/
def Obligations.IntEntersTheKernelFromUserMode : Prop :=
  (∀ s, Ready s →
    (s.mode = .user → exec .int s = .next
      { s with
        mode := .kernel
        pc := 1500
        sp := 1997
        mem := (s.mem.write 1999 s.sp).write 1998 (wrap (s.pc.toInt + 1))
        trace := s.trace ++ [.write 1999 s.sp, .write 1998 (wrap (s.pc.toInt + 1))] }) ∧
    (s.mode = .kernel → exec .int s = .next (faultedState (.kernelSyscall s.pc) s))) ∧
  RunsAlone 29 .int

/-- 46_system.md R191, 60_exceptions.md R239 (decision D9): IRet, in either mode; where a pop faults, the mode is
already user, and PC already popped when it is the second. -/
def Obligations.IRetPopsPcThenSpInUserMode : Prop :=
  (∀ s, Ready s →
    (¬ Cell (wrap (s.sp.toInt + 1)) → exec .iret s = .next
      (faultedState (.outOfRange (wrap (s.sp.toInt + 1)) .user s.pc)
        { s with mode := .user, sp := wrap (s.sp.toInt + 1) })) ∧
    (Cell (wrap (s.sp.toInt + 1)) → ¬ Cell (wrap (s.sp.toInt + 2)) → exec .iret s = .next
      (faultedState (.outOfRange (wrap (s.sp.toInt + 2)) .user (s.mem.read (wrap (s.sp.toInt + 1)).toNat))
        { s with
          mode := .user
          sp := wrap (s.sp.toInt + 2)
          pc := s.mem.read (wrap (s.sp.toInt + 1)).toNat
          trace := s.trace ++ [.read (wrap (s.sp.toInt + 1))] })) ∧
    (Cell (wrap (s.sp.toInt + 1)) → Cell (wrap (s.sp.toInt + 2)) → exec .iret s = .next
      { s with
        mode := .user
        pc := s.mem.read (wrap (s.sp.toInt + 1)).toNat
        sp := s.mem.read (wrap (s.sp.toInt + 2)).toNat
        trace := s.trace ++ [.read (wrap (s.sp.toInt + 1)), .read (wrap (s.sp.toInt + 2))] })) ∧
  RunsAlone 30 .iret

/-- 46_system.md R192 (decision D27): End halts the run in either mode, with Shutdown as the last request and PC left
at the opcode word. -/
def Obligations.EndHaltsWithShutdownLast : Prop :=
  (∀ s, Ready s → exec .endRun s = .next
    { s with status := .halted, trace := s.trace ++ [.shutdown], cpu := .closed, store := .terminated }) ∧
  RunsAlone 50 .endRun

/-! ## Frames -/

/-- 10_state.md R36: when `exec` answers a next state, every register, the mode and the output are unchanged unless
the instruction's row of the access table writes them; IR, the two counters, the launch parameters and the timer's
record are never changed by the execution of an instruction, and only Get takes a draw. -/
def Obligations.ExecutionWritesOnlyItsTableRow : Prop :=
  ∀ (i : Instr) (s t : State), exec i s = .next t →
    (.ac ∉ written s.params i → t.ac = s.ac) ∧ (.x ∉ written s.params i → t.x = s.x) ∧
    (.y ∉ written s.params i → t.y = s.y) ∧ (.sp ∉ written s.params i → t.sp = s.sp) ∧
    (.mode ∉ written s.params i → t.mode = s.mode) ∧ (.mem ∉ written s.params i → t.mem = s.mem) ∧
    (.out ∉ written s.params i → t.out = s.out) ∧ (.draws ∉ written s.params i → t.draws = s.draws) ∧
    t.ir = s.ir ∧ t.instrCount = s.instrCount ∧ t.pending = s.pending ∧ t.params = s.params ∧
    t.timerServedAt = s.timerServedAt

/-- 10_state.md R36, 20_memory.md R57: the memory frame of every instruction. A cell that is not among the cells the
instruction stores to (the operand for 7, SP for 23 and 27, 1999 and 1998 for 29, none for the others) reads as
before. -/
def Obligations.ExecutionWritesOnlyItsStoredCells : Prop :=
  ∀ (i : Instr) (s t : State), exec i s = .next t →
    ∀ b, b ∉ storedCells i s → t.mem.read b = s.mem.read b

/-- 40_load_store.md R106, 44_control_transfer.md R164, 45_stack.md R180, 60_exceptions.md R230: what the stored cells
hold when a storing instruction goes on. -/
def Obligations.StoringInstructionsLeaveTheirWordInMemory : Prop :=
  ∀ s t : State, Ready s → s.mem.Wf → t.status = .running →
    (∀ a, exec (.store a) s = .next t → t.mem.read a.toNat = s.ac) ∧
    (exec .push s = .next t → t.mem.read s.sp.toNat = s.ac) ∧
    (∀ target, exec (.call target) s = .next t → t.mem.read s.sp.toNat = wrap (s.pc.toInt + 1)) ∧
    (exec .int s = .next t → t.mem.read 1999 = s.sp ∧ t.mem.read 1998 = wrap (s.pc.toInt + 1))

/-! ## The whole machine -/

/-- 20_memory.md R56, R57: a serving store answers a read with the cell and changes nothing, and a write puts the value
in its cell and in no other, with no response; a Shutdown ends its serving (R58). -/
def Obligations.ServingStoreAnswersReadsAndStoresWrites : Prop :=
  ∀ (s : State) (a v : Word), s.store = .serving →
    (Cell a → storeRecv (.readReq a) s = (s, some (s.mem.read a.toNat))) ∧
    (Cell a → (storeRecv (.writeData v) (storeRecv (.writeAddr a) s).1).2 = none ∧
      (storeRecv (.writeAddr a) s).2 = none ∧
      (storeRecv (.writeData v) (storeRecv (.writeAddr a) s).1).1 = { s with mem := s.mem.write a.toNat v } ∧
      (s.mem.Wf → (s.mem.write a.toNat v).read a.toNat = v) ∧
      ∀ b, b ≠ a.toNat → (s.mem.write a.toNat v).read b = s.mem.read b) ∧
    (storeRecv .shutdown s).1.store = .terminated ∧ (storeRecv .shutdown s).1.mem = s.mem

/-- The invariant holds right after reset, for every launch whose image is in canonical form, and so for
`State.reset` (10_state.md R37). -/
def Obligations.InvariantHoldsAfterReset : Prop :=
  (∀ l : Launch, l.image.Wf → Inv (State.boot l)) ∧ Inv State.reset

/-- Every step keeps the invariant: memory in canonical form, counters in range, the protocol between requests while
the run goes on and ended with exactly one Shutdown after it, every request in range, and a fault record that fits the
state it left (10_state.md R28 to R30, 20_memory.md R53, 00_scope.md R9, 60_exceptions.md R238). -/
def Obligations.EveryStepKeepsTheInvariant : Prop :=
  ∀ s t : State, Inv s → step s = .next t → Inv t

/-- 20_memory.md R60 to R62: at every step from a state of the invariant, if memory is what the writes of the request
trace make of MEM0, in the order sent, it stays so; and it is so after reset. -/
def Obligations.MemoryIsTheReplayOfTheTrace : Prop :=
  (∀ l : Launch, (State.boot l).mem = replay l.image (State.boot l).trace) ∧
  ∀ (mem0 : Mem) (s t : State), Inv s → s.mem = replay mem0 s.trace → step s = .next t → t.mem = replay mem0 t.trace

/-- A step of a running CORE in a state of the invariant, with good launch parameters, always has a next state: no
reachable state is stuck (20_memory.md R59, R61; the model's faults and refusals are those of log entries 9, 11 and
12). -/
def Obligations.RunningMachineIsNeverStuck : Prop :=
  ∀ s : State, Inv s → s.status = .running → s.params.ok = true → ∃ t, step s = .next t

/-- 60_exceptions.md R221, R230 to R232 (decisions D17, D18, log entry 16, for the SP and the PC a trap entry leaves and
saves): kernel mode is entered only by trap entry, from user mode, by the timer (nothing fetched, to 1000, saving PC) or
by opcode 29 (to 1500, saving PC + 1); user mode is entered only by opcode 30. User mode is the mode after reset. -/
def Obligations.ModeChangesOnlyByTrapEntryAndIRet : Prop :=
  (∀ l, (State.boot l).mode = .user) ∧
  ∀ s t : State, step s = .next t →
    (s.mode = .user → t.mode = .kernel → t.sp = 1997 ∧
      ((t.pc = 1000 ∧ t.instrCount = s.instrCount ∧ t.ir = s.ir ∧
          t.trace = s.trace ++ [.write 1999 s.sp, .write 1998 s.pc]) ∨
        (t.pc = 1500 ∧ t.instrCount = s.instrCount + 1 ∧ t.ir = 29 ∧
          t.trace = s.trace ++ [.read s.pc, .write 1999 s.sp, .write 1998 (wrap (s.pc.toInt + 1))]))) ∧
    (s.mode = .kernel → t.mode = .user → t.ir = 30 ∧ t.instrCount = s.instrCount + 1)

/-- 10_state.md R25, R28: `instruction_count` rises by exactly 1, and IR takes the fetched word, in a cycle whose opcode
fetch completes; in every other cycle both are unchanged. -/
def Obligations.CountRisesExactlyWithEachFetch : Prop :=
  ∀ s t : State, step s = .next t →
    (∃ s1 w s2, admissionCheck s = .ok false s1 ∧ fetchOpcode s1 = .ok w s2 ∧
      t.instrCount = s.instrCount + 1 ∧ t.ir = w ∧ w = s.mem.read s.pc.toNat) ∨
    ((¬ ∃ s1 w s2, admissionCheck s = .ok false s1 ∧ fetchOpcode s1 = .ok w s2) ∧
      t.instrCount = s.instrCount ∧ t.ir = s.ir)

/-- 20_memory.md R43, R44, 60_exceptions.md R238, 95_test_vectors.md E4: with CHECK_STORES at its default, a step that
raises MemoryViolation ran in user mode, executed one of opcodes 2 to 6, names an address of 1000 or above, and wrote
no memory. -/
def Obligations.MemoryViolationOnlyFromCheckedUserLoads : Prop :=
  ∀ (s t : State) (a : Word) (m : Mode) (p : Word), s.params.checkStores = false → step s = .next t →
    t.status = .faulted (.memoryViolation a m p) →
    s.mode = .user ∧ m = .user ∧ 1000 ≤ a.toInt ∧ p = t.pc ∧ 2 ≤ t.ir.toInt ∧ t.ir.toInt ≤ 6 ∧ t.mem = s.mem

/-- 20_memory.md R60, R61, 00_scope.md R9, 10_state.md R34: a step only adds requests at the end of the trace, each with
an address in 0..1999, and never changes the launch parameters. -/
def Obligations.StepOnlyAppendsInRangeRequests : Prop :=
  ∀ s t : State, step s = .next t →
    t.params = s.params ∧ ∃ sent, t.trace = s.trace ++ sent ∧ ∀ r ∈ sent, r.InRange
end

