-- ==== Sys2Proof/Laws/Memory.lean ====
section
/-! SUPPORT. The laws of the memory operations: read after write, and that a write and the loading of an image keep
the canonical form. -/

namespace Sys2Proof.Machine

open Sys2Proof.Config

/-- A write leaves every other cell alone. -/
theorem Mem.read_write_other (m : Mem) {a b : Nat} (v : Word) (h : b ≠ a) : (m.write a v).read b = m.read b := by
  induction m with
  | nil => unfold Mem.write; split <;> simp [Mem.read, Ne.symm h]
  | cons p rest ih =>
    obtain ⟨k, u⟩ := p
    unfold Mem.write
    split
    · split <;> simp [Mem.read, Ne.symm h]
    · split
      · next hk => subst hk; split <;> simp [Mem.read, Ne.symm h]
      · simp only [Mem.read, ih]

/-- A cell below every listed address is not listed. -/
theorem Mem.read_of_forall_lt (m : Mem) {a : Nat} (h : ∀ p ∈ m, a < p.1) : m.read a = unlistedCell := by
  induction m with
  | nil => rfl
  | cons p rest ih =>
    obtain ⟨k, u⟩ := p
    have hk : a < k := h (k, u) (by simp)
    simp only [Mem.read, if_neg (Nat.ne_of_gt hk)]
    exact ih fun q hq => h q (List.mem_cons_of_mem _ hq)

/-- In canonical form, a read after a write of the same cell gives the word written (20_memory.md R57, R62). -/
theorem Mem.read_write_same (m : Mem) (a : Nat) (v : Word) (hm : m.Wf) : (m.write a v).read a = v := by
  induction m with
  | nil => unfold Mem.write; split <;> simp_all [Mem.read]
  | cons p rest ih =>
    obtain ⟨k, u⟩ := p
    have hs := List.pairwise_cons.mp hm.1
    have hrest : Mem.Wf rest := ⟨hs.2, fun q hq => hm.2 q (List.mem_cons_of_mem _ hq)⟩
    unfold Mem.write
    split
    · next hlt =>
      split
      · next hv =>
        rw [hv]
        refine Mem.read_of_forall_lt _ fun q hq => ?_
        rcases List.mem_cons.mp hq with rfl | hq
        · exact hlt
        · exact Nat.lt_trans hlt (hs.1 q hq)
      · simp [Mem.read]
    · split
      · next hk =>
        subst hk
        split
        · next hv => rw [hv]; exact Mem.read_of_forall_lt _ fun q hq => hs.1 q hq
        · simp [Mem.read]
      · next hk => simp only [Mem.read, if_neg (Ne.symm hk)]; exact ih hrest

/-- Every entry of a written memory is an old entry or the word written. -/
theorem Mem.mem_write {m : Mem} {a : Nat} {v : Word} {p : Nat × Word} (h : p ∈ m.write a v) :
    p ∈ m ∨ (p = (a, v) ∧ v ≠ unlistedCell) := by
  induction m with
  | nil => unfold Mem.write at h; split at h <;> simp_all
  | cons q rest ih =>
    obtain ⟨k, u⟩ := q
    unfold Mem.write at h
    split at h
    · split at h
      · exact .inl h
      · rcases List.mem_cons.mp h with h | h
        · exact .inr ⟨h, ‹_›⟩
        · exact .inl h
    · split at h
      · split at h
        · exact .inl (List.mem_cons_of_mem _ h)
        · rcases List.mem_cons.mp h with h | h
          · exact .inr ⟨h, ‹_›⟩
          · exact .inl (List.mem_cons_of_mem _ h)
      · rcases List.mem_cons.mp h with h | h
        · exact .inl (h ▸ List.mem_cons_self)
        · exact (ih h).imp (List.mem_cons_of_mem _) id

/-- A write to a cell keeps the canonical form. -/
theorem Mem.write_wf {m : Mem} {a : Nat} (v : Word) (hm : m.Wf) (ha : a < memSize) : (m.write a v).Wf := by
  refine ⟨?_, fun p hp => ?_⟩
  · induction m with
    | nil => unfold Mem.write; split <;> simp
    | cons q rest ih =>
      obtain ⟨k, u⟩ := q
      have hs := List.pairwise_cons.mp hm.1
      have hrest : Mem.Wf rest := ⟨hs.2, fun q hq => hm.2 q (List.mem_cons_of_mem _ hq)⟩
      unfold Mem.write
      split
      · next hlt =>
        split
        · exact hm.1
        · refine List.pairwise_cons.mpr ⟨fun q hq => ?_, hm.1⟩
          rcases List.mem_cons.mp hq with rfl | hq
          · exact hlt
          · exact Nat.lt_trans hlt (hs.1 q hq)
      · split
        · next hk =>
          subst hk
          split
          · exact hs.2
          · exact List.pairwise_cons.mpr ⟨hs.1, hs.2⟩
        · next hlt hk =>
          refine List.pairwise_cons.mpr ⟨fun q hq => ?_, ih hrest⟩
          rcases Mem.mem_write hq with hq | ⟨rfl, -⟩
          · exact hs.1 q hq
          · show k < a; omega
  · rcases Mem.mem_write hp with hp | ⟨rfl, hv⟩
    · exact hm.2 p hp
    · exact ⟨ha, hv⟩

/-- Loading an image keeps the canonical form (70_reset_and_hazards.md R266). -/
theorem loadImage_wf {lines : List ImageLine} {next : Nat} {m m' : Mem} (hm : m.Wf)
    (h : loadImage lines next m = some m') : m'.Wf := by
  induction lines generalizing next m with
  | nil => simp only [loadImage, Option.some.injEq] at h; exact h ▸ hm
  | cons l rest ih =>
    cases l with
    | loadAt n => exact ih hm h
    | comment => exact ih hm h
    | value v =>
      simp only [loadImage] at h
      split at h
      · next hlt => exact ih (Mem.write_wf v hm hlt) h
      · cases h

end Sys2Proof.Machine
end

