-- ==== Sys2Proof/Laws/State.lean ====
section
/-! SUPPORT. One lemma per field for each named update of State, so that no proof unfolds an update. An update written
as a record with `with` needs none: Lean reduces its fields itself. -/

namespace Sys2Proof.Machine

/-! ## `advance` -/

@[simp] theorem advance_pc (s : State) : (advance s).pc = wrap (s.pc.toInt + 1) := rfl
@[simp] theorem advance_sp (s : State) : (advance s).sp = s.sp := rfl
@[simp] theorem advance_ir (s : State) : (advance s).ir = s.ir := rfl
@[simp] theorem advance_ac (s : State) : (advance s).ac = s.ac := rfl
@[simp] theorem advance_x (s : State) : (advance s).x = s.x := rfl
@[simp] theorem advance_y (s : State) : (advance s).y = s.y := rfl
@[simp] theorem advance_mode (s : State) : (advance s).mode = s.mode := rfl
@[simp] theorem advance_instrCount (s : State) : (advance s).instrCount = s.instrCount := rfl
@[simp] theorem advance_pending (s : State) : (advance s).pending = s.pending := rfl
@[simp] theorem advance_mem (s : State) : (advance s).mem = s.mem := rfl
@[simp] theorem advance_out (s : State) : (advance s).out = s.out := rfl
@[simp] theorem advance_trace (s : State) : (advance s).trace = s.trace := rfl
@[simp] theorem advance_status (s : State) : (advance s).status = s.status := rfl
@[simp] theorem advance_cpu (s : State) : (advance s).cpu = s.cpu := rfl
@[simp] theorem advance_store (s : State) : (advance s).store = s.store := rfl
@[simp] theorem advance_params (s : State) : (advance s).params = s.params := rfl
@[simp] theorem advance_timerServedAt (s : State) : (advance s).timerServedAt = s.timerServedAt := rfl
@[simp] theorem advance_draws (s : State) : (advance s).draws = s.draws := rfl

/-! ## `emit` -/

@[simp] theorem emit_pc (e : OutEvent) (s : State) : (emit e s).pc = s.pc := rfl
@[simp] theorem emit_sp (e : OutEvent) (s : State) : (emit e s).sp = s.sp := rfl
@[simp] theorem emit_ir (e : OutEvent) (s : State) : (emit e s).ir = s.ir := rfl
@[simp] theorem emit_ac (e : OutEvent) (s : State) : (emit e s).ac = s.ac := rfl
@[simp] theorem emit_x (e : OutEvent) (s : State) : (emit e s).x = s.x := rfl
@[simp] theorem emit_y (e : OutEvent) (s : State) : (emit e s).y = s.y := rfl
@[simp] theorem emit_mode (e : OutEvent) (s : State) : (emit e s).mode = s.mode := rfl
@[simp] theorem emit_instrCount (e : OutEvent) (s : State) : (emit e s).instrCount = s.instrCount := rfl
@[simp] theorem emit_pending (e : OutEvent) (s : State) : (emit e s).pending = s.pending := rfl
@[simp] theorem emit_mem (e : OutEvent) (s : State) : (emit e s).mem = s.mem := rfl
@[simp] theorem emit_out (e : OutEvent) (s : State) : (emit e s).out = s.out ++ [e] := rfl
@[simp] theorem emit_trace (e : OutEvent) (s : State) : (emit e s).trace = s.trace := rfl
@[simp] theorem emit_status (e : OutEvent) (s : State) : (emit e s).status = s.status := rfl
@[simp] theorem emit_cpu (e : OutEvent) (s : State) : (emit e s).cpu = s.cpu := rfl
@[simp] theorem emit_store (e : OutEvent) (s : State) : (emit e s).store = s.store := rfl
@[simp] theorem emit_params (e : OutEvent) (s : State) : (emit e s).params = s.params := rfl
@[simp] theorem emit_timerServedAt (e : OutEvent) (s : State) : (emit e s).timerServedAt = s.timerServedAt := rfl
@[simp] theorem emit_draws (e : OutEvent) (s : State) : (emit e s).draws = s.draws := rfl

/-! ## `storeError` -/

@[simp] theorem storeError_pc (s : State) : (storeError s).pc = s.pc := rfl
@[simp] theorem storeError_sp (s : State) : (storeError s).sp = s.sp := rfl
@[simp] theorem storeError_ir (s : State) : (storeError s).ir = s.ir := rfl
@[simp] theorem storeError_ac (s : State) : (storeError s).ac = s.ac := rfl
@[simp] theorem storeError_x (s : State) : (storeError s).x = s.x := rfl
@[simp] theorem storeError_y (s : State) : (storeError s).y = s.y := rfl
@[simp] theorem storeError_mode (s : State) : (storeError s).mode = s.mode := rfl
@[simp] theorem storeError_instrCount (s : State) : (storeError s).instrCount = s.instrCount := rfl
@[simp] theorem storeError_pending (s : State) : (storeError s).pending = s.pending := rfl
@[simp] theorem storeError_mem (s : State) : (storeError s).mem = s.mem := rfl
@[simp] theorem storeError_out (s : State) : (storeError s).out = s.out := rfl
@[simp] theorem storeError_trace (s : State) : (storeError s).trace = s.trace := rfl
@[simp] theorem storeError_status (s : State) : (storeError s).status = s.status := rfl
@[simp] theorem storeError_cpu (s : State) : (storeError s).cpu = s.cpu := rfl
@[simp] theorem storeError_store (s : State) : (storeError s).store = StoreFsm.terminated := rfl
@[simp] theorem storeError_params (s : State) : (storeError s).params = s.params := rfl
@[simp] theorem storeError_timerServedAt (s : State) : (storeError s).timerServedAt = s.timerServedAt := rfl
@[simp] theorem storeError_draws (s : State) : (storeError s).draws = s.draws := rfl

/-! ## `faultedState` -/

@[simp] theorem faultedState_pc (r : FaultRecord) (s : State) : (faultedState r s).pc = s.pc := rfl
@[simp] theorem faultedState_sp (r : FaultRecord) (s : State) : (faultedState r s).sp = s.sp := rfl
@[simp] theorem faultedState_ir (r : FaultRecord) (s : State) : (faultedState r s).ir = s.ir := rfl
@[simp] theorem faultedState_ac (r : FaultRecord) (s : State) : (faultedState r s).ac = s.ac := rfl
@[simp] theorem faultedState_x (r : FaultRecord) (s : State) : (faultedState r s).x = s.x := rfl
@[simp] theorem faultedState_y (r : FaultRecord) (s : State) : (faultedState r s).y = s.y := rfl
@[simp] theorem faultedState_mode (r : FaultRecord) (s : State) : (faultedState r s).mode = s.mode := rfl
@[simp] theorem faultedState_instrCount (r : FaultRecord) (s : State) : (faultedState r s).instrCount = s.instrCount := rfl
@[simp] theorem faultedState_pending (r : FaultRecord) (s : State) : (faultedState r s).pending = s.pending := rfl
@[simp] theorem faultedState_mem (r : FaultRecord) (s : State) : (faultedState r s).mem = s.mem := rfl
@[simp] theorem faultedState_out (r : FaultRecord) (s : State) : (faultedState r s).out = s.out := rfl
@[simp] theorem faultedState_trace (r : FaultRecord) (s : State) : (faultedState r s).trace = s.trace ++ [.shutdown] := rfl
@[simp] theorem faultedState_status (r : FaultRecord) (s : State) : (faultedState r s).status = RunStatus.faulted r := rfl
@[simp] theorem faultedState_cpu (r : FaultRecord) (s : State) : (faultedState r s).cpu = CpuFsm.closed := rfl
@[simp] theorem faultedState_store (r : FaultRecord) (s : State) : (faultedState r s).store = StoreFsm.terminated := rfl
@[simp] theorem faultedState_params (r : FaultRecord) (s : State) : (faultedState r s).params = s.params := rfl
@[simp] theorem faultedState_timerServedAt (r : FaultRecord) (s : State) : (faultedState r s).timerServedAt = s.timerServedAt := rfl
@[simp] theorem faultedState_draws (r : FaultRecord) (s : State) : (faultedState r s).draws = s.draws := rfl

/-! ## `timerServed` -/

@[simp] theorem timerServed_pc (s : State) : (timerServed s).pc = s.pc := by
  unfold timerServed; split <;> rfl
@[simp] theorem timerServed_sp (s : State) : (timerServed s).sp = s.sp := by
  unfold timerServed; split <;> rfl
@[simp] theorem timerServed_ir (s : State) : (timerServed s).ir = s.ir := by
  unfold timerServed; split <;> rfl
@[simp] theorem timerServed_ac (s : State) : (timerServed s).ac = s.ac := by
  unfold timerServed; split <;> rfl
@[simp] theorem timerServed_x (s : State) : (timerServed s).x = s.x := by
  unfold timerServed; split <;> rfl
@[simp] theorem timerServed_y (s : State) : (timerServed s).y = s.y := by
  unfold timerServed; split <;> rfl
@[simp] theorem timerServed_mode (s : State) : (timerServed s).mode = s.mode := by
  unfold timerServed; split <;> rfl
@[simp] theorem timerServed_instrCount (s : State) : (timerServed s).instrCount = s.instrCount := by
  unfold timerServed; split <;> rfl
@[simp] theorem timerServed_pending (s : State) : (timerServed s).pending = s.pending := by
  unfold timerServed; split <;> rfl
@[simp] theorem timerServed_mem (s : State) : (timerServed s).mem = s.mem := by
  unfold timerServed; split <;> rfl
@[simp] theorem timerServed_out (s : State) : (timerServed s).out = s.out := by
  unfold timerServed; split <;> rfl
@[simp] theorem timerServed_trace (s : State) : (timerServed s).trace = s.trace := by
  unfold timerServed; split <;> rfl
@[simp] theorem timerServed_status (s : State) : (timerServed s).status = s.status := by
  unfold timerServed; split <;> rfl
@[simp] theorem timerServed_cpu (s : State) : (timerServed s).cpu = s.cpu := by
  unfold timerServed; split <;> rfl
@[simp] theorem timerServed_store (s : State) : (timerServed s).store = s.store := by
  unfold timerServed; split <;> rfl
@[simp] theorem timerServed_params (s : State) : (timerServed s).params = s.params := by
  unfold timerServed; split <;> rfl
@[simp] theorem timerServed_draws (s : State) : (timerServed s).draws = s.draws := by
  unfold timerServed; split <;> rfl

/-- With ADMIT_ONCE_PER_COUNT off, serving the timer keeps no record (00_scope.md R6). -/
theorem timerServed_of_not_admitOnce {s : State} (h : s.params.admitOnce = false) : timerServed s = s := by
  simp [timerServed, h]

end Sys2Proof.Machine
end

