-- ==== Sys2Proof/Laws/Word.lean ====
section
/-! SUPPORT. The signed arithmetic of the model against the bit-vector operations, and the range check against the
unsigned value of an address. -/

namespace Sys2Proof.Machine

open Sys2Proof.Config

theorem wrap_toInt (a : Word) : wrap a.toInt = a := by simp [wrap]

theorem wrap_toInt_add (a b : Word) : wrap (a.toInt + b.toInt) = a + b := by
  simp [wrap, BitVec.ofInt_add]

theorem wrap_toInt_sub (a b : Word) : wrap (a.toInt - b.toInt) = a - b := by
  apply BitVec.eq_of_toInt_eq
  simp [wrap, BitVec.toInt_ofInt, BitVec.toInt_sub]

theorem wrap_toInt_add_one (a : Word) : wrap (a.toInt + 1) = a + 1 := by
  simpa using wrap_toInt_add a 1

theorem wrap_toInt_sub_one (a : Word) : wrap (a.toInt - 1) = a - 1 := by
  simpa using wrap_toInt_sub a 1

/-- Pop after Push finds the old SP: the two address computations cancel (20_memory.md R46, R47). -/
theorem wrap_sub_one_add_one (a : Word) : wrap ((wrap (a.toInt - 1)).toInt + 1) = a := by
  rw [wrap_toInt_sub_one, wrap_toInt_add_one]
  exact BitVec.sub_add_cancel a 1

theorem inRange_eq (a : Word) : inRange a = decide (a.toNat < 2000) := by
  have h := BitVec.toInt_eq_toNat_cond a
  have hlt := a.isLt
  unfold inRange memSize
  rw [← Bool.decide_and]
  apply decide_eq_decide.mpr
  split at h <;> omega

theorem inRange_iff (a : Word) : inRange a = true ↔ a.toNat < 2000 := by simp [inRange_eq]

/-- The range check is the condition of 00_scope.md R9. -/
theorem inRange_iff_cell (a : Word) : inRange a = true ↔ Cell a := by
  unfold inRange memSize
  rw [Bool.and_eq_true, decide_eq_true_iff, decide_eq_true_iff]
  show _ ↔ 0 ≤ a.toInt ∧ a.toInt ≤ 1999
  omega

theorem not_inRange_iff (a : Word) : inRange a = false ↔ ¬ Cell a := by
  rw [← inRange_iff_cell]; simp

/-- The protection check is the condition of 20_memory.md R44. -/
theorem violates_iff (s : State) (a : Word) : violates s a = true ↔ Violation s a := by
  unfold violates kernelBase
  rw [Bool.and_eq_true, decide_eq_true_iff, decide_eq_true_iff]

theorem not_violates_iff (s : State) (a : Word) : violates s a = false ↔ ¬ Violation s a := by
  rw [← violates_iff]; simp

end Sys2Proof.Machine
end

