-- ==== Sys2Proof/Laws/Ops.lean ====
section
/-! SUPPORT. One lemma per shared operation that says everything it can do (`…_cases`, for every state), and the plain
equation it satisfies when the protocol is between requests (`…_ready`). Later proofs cite these and do not unfold
the operations. -/

namespace Sys2Proof.Machine

open Sys2Proof.Config

/-! ## Putting parts together -/

@[simp] theorem Act.bind_ok {α β : Type} (a : α) (s : State) (k : α → State → Act β) :
    (Act.ok a s).bind k = k a s := rfl
@[simp] theorem Act.bind_stop {α β : Type} (o : Out) (k : α → State → Act β) :
    (Act.stop o : Act α).bind k = .stop o := rfl
@[simp] theorem Act.finish_ok {α : Type} (a : α) (s : State) (k : α → State → Out) :
    (Act.ok a s).finish k = k a s := rfl
@[simp] theorem Act.finish_stop {α : Type} (o : Out) (k : α → State → Out) :
    (Act.stop o : Act α).finish k = o := rfl

/-! ## The fatal sequence -/

/-- The fatal sequence needs only an idle CPU FSM (60_exceptions.md R240). -/
theorem fatal_idle (r : FaultRecord) {s : State} (h : s.cpu = .idle) : fatal r s = .next (faultedState r s) := by
  cases hst : s.store <;> simp [fatal, sendShutdown, storeRecv, storeError, faultedState, h, hst]

theorem fatal_cases (r : FaultRecord) (s : State) :
    (s.cpu = .idle ∧ fatal r s = .next (faultedState r s)) ∨ fatal r s = .fault .cpuNotIdle := by
  cases h : s.cpu with
  | idle => exact .inl ⟨rfl, fatal_idle r h⟩
  | awaitRead a => exact .inr (by simp [fatal, sendShutdown, h])
  | closed => exact .inr (by simp [fatal, sendShutdown, h])

/-! ## Reads -/

theorem memRead_ready {a : Word} {s : State} (hr : Ready s) (ha : inRange a = true) :
    memRead a s = .ok (s.mem.read a.toNat) { s with trace := s.trace ++ [.read a] } := by
  obtain ⟨hc, hs⟩ := hr
  cases s
  simp_all [memRead, sendRead, storeRecv]

theorem memRead_outOfRange {a : Word} {s : State} (hc : s.cpu = .idle) (ha : inRange a = false) :
    memRead a s = .stop (.next (faultedState (.outOfRange a s.mode s.pc) s)) := by
  simp [memRead, raise, ha, fatal_idle _ hc]

/-- Everything `MemRead` can do. -/
theorem memRead_cases (a : Word) (s : State) :
    (inRange a = true ∧ Ready s ∧
      memRead a s = .ok (s.mem.read a.toNat) { s with trace := s.trace ++ [.read a] }) ∨
    (inRange a = false ∧ s.cpu = .idle ∧
      memRead a s = .stop (.next (faultedState (.outOfRange a s.mode s.pc) s))) ∨
    ∃ f, memRead a s = .stop (.fault f) := by
  cases hc : s.cpu with
  | idle =>
    cases ha : inRange a with
    | false => exact .inr (.inl ⟨rfl, rfl, memRead_outOfRange hc ha⟩)
    | true =>
      cases hs : s.store with
      | serving => exact .inl ⟨rfl, ⟨hc, hs⟩, by simp [memRead, sendRead, storeRecv, ha, hc, hs]⟩
      | awaitData b => exact .inr (.inr ⟨.noResponse, by simp [memRead, sendRead, storeRecv, ha, hc, hs]⟩)
      | terminated => exact .inr (.inr ⟨.noResponse, by simp [memRead, sendRead, storeRecv, ha, hc, hs]⟩)
  | awaitRead b =>
    refine .inr (.inr ⟨.cpuNotIdle, ?_⟩)
    cases ha : inRange a <;> simp [memRead, sendRead, raise, fatal, sendShutdown, ha, hc]
  | closed =>
    refine .inr (.inr ⟨.cpuNotIdle, ?_⟩)
    cases ha : inRange a <;> simp [memRead, sendRead, raise, fatal, sendShutdown, ha, hc]

/-- Everything `CheckedRead` can do: the violation comes first (20_memory.md R44). -/
theorem checkedRead_cases (a : Word) (s : State) :
    (violates s a = false ∧ inRange a = true ∧ Ready s ∧
      checkedRead a s = .ok (s.mem.read a.toNat) { s with trace := s.trace ++ [.read a] }) ∨
    (violates s a = true ∧ s.cpu = .idle ∧
      checkedRead a s = .stop (.next (faultedState (.memoryViolation a s.mode s.pc) s))) ∨
    (violates s a = false ∧ inRange a = false ∧ s.cpu = .idle ∧
      checkedRead a s = .stop (.next (faultedState (.outOfRange a s.mode s.pc) s))) ∨
    ∃ f, checkedRead a s = .stop (.fault f) := by
  cases hv : violates s a with
  | true =>
    rcases fatal_cases (.memoryViolation a s.mode s.pc) s with ⟨hc, h⟩ | h
    · exact .inr (.inl ⟨rfl, hc, by simp [checkedRead, raise, hv, h]⟩)
    · exact .inr (.inr (.inr ⟨_, by simp [checkedRead, raise, hv, h]; rfl⟩))
  | false =>
    have e : checkedRead a s = memRead a s := by simp [checkedRead, hv]
    rw [e]
    rcases memRead_cases a s with ⟨h1, h2, h3⟩ | ⟨h1, h2, h3⟩ | h
    · exact .inl ⟨rfl, h1, h2, h3⟩
    · exact .inr (.inr (.inl ⟨rfl, h1, h2, h3⟩))
    · exact .inr (.inr (.inr h))

theorem checkedRead_ready {a : Word} {s : State} (hr : Ready s) (hv : violates s a = false)
    (ha : inRange a = true) :
    checkedRead a s = .ok (s.mem.read a.toNat) { s with trace := s.trace ++ [.read a] } := by
  simp [checkedRead, hv, memRead_ready hr ha]

theorem checkedRead_violation {a : Word} {s : State} (hc : s.cpu = .idle) (hv : violates s a = true) :
    checkedRead a s = .stop (.next (faultedState (.memoryViolation a s.mode s.pc) s)) := by
  simp [checkedRead, raise, hv, fatal_idle _ hc]

theorem checkedRead_outOfRange {a : Word} {s : State} (hc : s.cpu = .idle) (hv : violates s a = false)
    (ha : inRange a = false) :
    checkedRead a s = .stop (.next (faultedState (.outOfRange a s.mode s.pc) s)) := by
  simp [checkedRead, hv, memRead_outOfRange hc ha]

/-! ## Writes -/

theorem memWrite_ready {a v : Word} {s : State} (hr : Ready s) (ha : inRange a = true) :
    memWrite a v s = .ok () { s with mem := s.mem.write a.toNat v, trace := s.trace ++ [.write a v] } := by
  obtain ⟨hc, hs⟩ := hr
  cases s
  simp_all [memWrite, sendWrite, storeRecv]

theorem memWrite_outOfRange {a v : Word} {s : State} (hc : s.cpu = .idle) (ha : inRange a = false) :
    memWrite a v s = .stop (.next (faultedState (.outOfRange a s.mode s.pc) s)) := by
  simp [memWrite, raise, ha, fatal_idle _ hc]

/-- Everything `MemWrite` can do. A store that is not serving loses the write and stops (20_memory.md R59). -/
theorem memWrite_cases (a v : Word) (s : State) :
    (inRange a = true ∧ s.cpu = .idle ∧ ∃ m st,
      memWrite a v s = .ok () { s with mem := m, trace := s.trace ++ [.write a v], store := st } ∧
      ((s.store = .serving ∧ m = s.mem.write a.toNat v ∧ st = .serving) ∨
        (s.store ≠ .serving ∧ m = s.mem ∧ st = .terminated))) ∨
    (inRange a = false ∧ s.cpu = .idle ∧
      memWrite a v s = .stop (.next (faultedState (.outOfRange a s.mode s.pc) s))) ∨
    ∃ f, memWrite a v s = .stop (.fault f) := by
  cases hc : s.cpu with
  | idle =>
    cases ha : inRange a with
    | false => exact .inr (.inl ⟨rfl, rfl, memWrite_outOfRange hc ha⟩)
    | true =>
      refine .inl ⟨rfl, rfl, ?_⟩
      cases hs : s.store with
      | serving =>
        refine ⟨s.mem.write a.toNat v, .serving, ?_, .inl ⟨rfl, rfl, rfl⟩⟩
        simp [memWrite, sendWrite, storeRecv, ha, hc, hs]
      | awaitData b =>
        refine ⟨s.mem, .terminated, ?_, .inr ⟨by simp, rfl, rfl⟩⟩
        simp [memWrite, sendWrite, storeRecv, storeError, ha, hc, hs]
      | terminated =>
        refine ⟨s.mem, .terminated, ?_, .inr ⟨by simp, rfl, rfl⟩⟩
        simp [memWrite, sendWrite, storeRecv, storeError, ha, hc, hs]
  | awaitRead b =>
    refine .inr (.inr ⟨.cpuNotIdle, ?_⟩)
    cases ha : inRange a <;> simp [memWrite, sendWrite, raise, fatal, sendShutdown, ha, hc]
  | closed =>
    refine .inr (.inr ⟨.cpuNotIdle, ?_⟩)
    cases ha : inRange a <;> simp [memWrite, sendWrite, raise, fatal, sendShutdown, ha, hc]

/-- With CHECK_STORES off, or in kernel mode, a store is a plain write (20_memory.md R45). -/
theorem storeWord_eq_memWrite {a v : Word} {s : State} (h : s.params.checkStores = false ∨ violates s a = false) :
    storeWord a v s = memWrite a v s := by
  rcases h with h | h <;> simp [storeWord, h]

/-- Everything the store of opcode 7 and of `Push` can do. -/
theorem storeWord_cases (a v : Word) (s : State) :
    (inRange a = true ∧ s.cpu = .idle ∧ ∃ m st,
      storeWord a v s = .ok () { s with mem := m, trace := s.trace ++ [.write a v], store := st } ∧
      ((s.store = .serving ∧ m = s.mem.write a.toNat v ∧ st = .serving) ∨
        (s.store ≠ .serving ∧ m = s.mem ∧ st = .terminated))) ∨
    (s.params.checkStores = true ∧ violates s a = true ∧ s.cpu = .idle ∧
      storeWord a v s = .stop (.next (faultedState (.memoryViolation a s.mode s.pc) s))) ∨
    (inRange a = false ∧ s.cpu = .idle ∧
      storeWord a v s = .stop (.next (faultedState (.outOfRange a s.mode s.pc) s))) ∨
    ∃ f, storeWord a v s = .stop (.fault f) := by
  by_cases hv : s.params.checkStores = true ∧ violates s a = true
  · rcases fatal_cases (.memoryViolation a s.mode s.pc) s with ⟨hc, h⟩ | h
    · exact .inr (.inl ⟨hv.1, hv.2, hc, by simp [storeWord, raise, hv, h]⟩)
    · exact .inr (.inr (.inr ⟨_, by simp [storeWord, raise, hv, h]; rfl⟩))
  · have e : storeWord a v s = memWrite a v s := by
      apply storeWord_eq_memWrite
      rcases not_and_or.mp hv with h | h
      · exact .inl (by simpa using h)
      · exact .inr (by simpa using h)
    rw [e]
    rcases memWrite_cases a v s with h | h | h
    · exact .inl h
    · exact .inr (.inr (.inl h))
    · exact .inr (.inr (.inr h))

/-! ## Stacks -/

/-- Everything `Push` can do (20_memory.md R46). -/
theorem push_cases (v : Word) (s : State) :
    (inRange s.sp = true ∧ s.cpu = .idle ∧ ∃ m st,
      push v s = .ok () { s with mem := m, trace := s.trace ++ [.write s.sp v], store := st, sp := wrap (s.sp.toInt - 1) } ∧
      ((s.store = .serving ∧ m = s.mem.write s.sp.toNat v ∧ st = .serving) ∨
        (s.store ≠ .serving ∧ m = s.mem ∧ st = .terminated))) ∨
    (s.params.checkStores = true ∧ violates s s.sp = true ∧ s.cpu = .idle ∧
      push v s = .stop (.next (faultedState (.memoryViolation s.sp s.mode s.pc) s))) ∨
    (inRange s.sp = false ∧ s.cpu = .idle ∧
      push v s = .stop (.next (faultedState (.outOfRange s.sp s.mode s.pc) s))) ∨
    ∃ f, push v s = .stop (.fault f) := by
  rcases storeWord_cases s.sp v s with ⟨h1, h2, m, st, h3, h4⟩ | ⟨h1, h2, h3, h4⟩ | ⟨h1, h2, h3⟩ | ⟨f, h⟩
  · exact .inl ⟨h1, h2, m, st, by simp [push, h3], h4⟩
  · exact .inr (.inl ⟨h1, h2, h3, by simp [push, h4]⟩)
  · exact .inr (.inr (.inl ⟨h1, h2, by simp [push, h3]⟩))
  · exact .inr (.inr (.inr ⟨f, by simp [push, h]⟩))

theorem push_ready {v : Word} {s : State} (hr : Ready s) (ha : inRange s.sp = true)
    (hc : s.params.checkStores = false ∨ violates s s.sp = false) :
    push v s = .ok ()
      { s with
        mem := s.mem.write s.sp.toNat v
        trace := s.trace ++ [.write s.sp v]
        sp := wrap (s.sp.toInt - 1) } := by
  simp [push, storeWord_eq_memWrite hc, memWrite_ready hr ha]

/-- A push to a store that has stopped serving is lost (20_memory.md R59). -/
theorem push_notServing {v : Word} {s : State} (hi : s.cpu = .idle) (hs : s.store ≠ .serving)
    (ha : inRange s.sp = true) (hc : s.params.checkStores = false ∨ violates s s.sp = false) :
    push v s = .ok ()
      { s with trace := s.trace ++ [.write s.sp v], store := .terminated, sp := wrap (s.sp.toInt - 1) } := by
  have h : sendWrite s.sp v s = .ok () { s with trace := s.trace ++ [.write s.sp v], store := .terminated } := by
    cases h : s.store <;> simp_all [sendWrite, storeRecv, storeError]
  simp [push, storeWord_eq_memWrite hc, memWrite, ha, h]

/-- Everything `Pop` can do: SP is incremented on every path (20_memory.md R47). -/
theorem pop_cases (s : State) :
    (inRange (wrap (s.sp.toInt + 1)) = true ∧ Ready s ∧
      pop s = .ok (s.mem.read (wrap (s.sp.toInt + 1)).toNat)
        { s with sp := wrap (s.sp.toInt + 1), trace := s.trace ++ [.read (wrap (s.sp.toInt + 1))] }) ∨
    (inRange (wrap (s.sp.toInt + 1)) = false ∧ s.cpu = .idle ∧
      pop s = .stop (.next (faultedState (.outOfRange (wrap (s.sp.toInt + 1)) s.mode s.pc)
        { s with sp := wrap (s.sp.toInt + 1) }))) ∨
    ∃ f, pop s = .stop (.fault f) :=
  memRead_cases (wrap (s.sp.toInt + 1)) { s with sp := wrap (s.sp.toInt + 1) }

theorem pop_ready {s : State} (hr : Ready s) (ha : inRange (wrap (s.sp.toInt + 1)) = true) :
    pop s = .ok (s.mem.read (wrap (s.sp.toInt + 1)).toNat)
      { s with sp := wrap (s.sp.toInt + 1), trace := s.trace ++ [.read (wrap (s.sp.toInt + 1))] } :=
  memRead_ready (s := { s with sp := wrap (s.sp.toInt + 1) }) hr ha

/-! ## Trap entry -/

/-- The state trap entry leaves (60_exceptions.md R230). -/
theorem trapEntry_ready {vector savedPc : Word} {s : State} (hr : Ready s) :
    trapEntry vector savedPc s = .next
      { s with
        mode := .kernel
        sp := 1997
        pc := vector
        mem := (s.mem.write 1999 s.sp).write 1998 savedPc
        trace := s.trace ++ [.write 1999 s.sp, .write 1998 savedPc] } := by
  have e1 : wrap (sysStackTop.toInt - 1) = 1998 := by decide
  have e2 : wrap (BitVec.toInt (1998 : Word) - 1) = 1997 := by decide
  unfold trapEntry
  rw [push_ready (by exact hr) (by exact (by decide : inRange sysStackTop = true)) (.inr (by simp [violates])), Act.finish_ok]
  dsimp only
  rw [e1, push_ready (by exact hr) (by exact (by decide : inRange 1998 = true)) (.inr (by simp [violates])), Act.finish_ok]
  dsimp only
  rw [e2, List.append_assoc]
  rfl

/-- Everything trap entry can do, in every state: it never faults (60_exceptions.md R230), and memory is written at
1999 and 1998 only. -/
theorem trapEntry_cases (vector savedPc : Word) (s : State) :
    (s.cpu = .idle ∧ ∃ m st, trapEntry vector savedPc s = .next
      { s with
        mode := .kernel
        sp := 1997
        pc := vector
        mem := m
        store := st
        trace := s.trace ++ [.write 1999 s.sp, .write 1998 savedPc] } ∧
      ((s.store = .serving ∧ m = (s.mem.write 1999 s.sp).write 1998 savedPc ∧ st = .serving) ∨
        (s.store ≠ .serving ∧ m = s.mem ∧ st = .terminated))) ∨
    trapEntry vector savedPc s = .fault .cpuNotIdle := by
  have e1 : wrap (sysStackTop.toInt - 1) = 1998 := by decide
  have e2 : wrap (BitVec.toInt (1998 : Word) - 1) = 1997 := by decide
  cases hc : s.cpu with
  | idle =>
    refine .inl ⟨rfl, ?_⟩
    by_cases hs : s.store = .serving
    · refine ⟨_, .serving, (trapEntry_ready ⟨hc, hs⟩).trans ?_, .inl ⟨hs, rfl, rfl⟩⟩
      rw [← hs, ← hc]
    · refine ⟨s.mem, .terminated, ?_, .inr ⟨hs, rfl, rfl⟩⟩
      unfold trapEntry
      rw [push_notServing (by exact hc) (by exact hs) (by exact (by decide : inRange sysStackTop = true)) (.inr (by simp [violates])),
        Act.finish_ok]
      dsimp only
      rw [e1, push_notServing (by exact hc) (by simp) (by exact (by decide : inRange 1998 = true)) (.inr (by simp [violates])),
        Act.finish_ok]
      dsimp only
      rw [e2, List.append_assoc, hc]
      rfl
  | awaitRead b =>
    refine .inr ?_
    simp [trapEntry, push, storeWord, violates, memWrite, sendWrite, hc, show inRange sysStackTop = true by decide]
  | closed =>
    refine .inr ?_
    simp [trapEntry, push, storeWord, violates, memWrite, sendWrite, hc, show inRange sysStackTop = true by decide]

/-! ## Shutdown -/

theorem execEnd_cases (s : State) :
    (s.cpu = .idle ∧ execEnd s = .next
      { s with status := .halted, trace := s.trace ++ [.shutdown], cpu := .closed, store := .terminated }) ∨
    execEnd s = .fault .cpuNotIdle := by
  cases h : s.cpu with
  | idle =>
    refine .inl ⟨rfl, ?_⟩
    cases hst : s.store <;> simp [execEnd, sendShutdown, storeRecv, storeError, h, hst]
  | awaitRead a => exact .inr (by simp [execEnd, sendShutdown, h])
  | closed => exact .inr (by simp [execEnd, sendShutdown, h])

end Sys2Proof.Machine
end

