-- ==== Sys2Proof/Laws/PerInstr.lean ====
section
/-! SUPPORT. Facts per instruction, one lemma per constructor. -/

namespace Sys2Proof.Laws.Codec

open Sys2Proof

/-- The words of an instruction are well formed: a legal opcode word and as many words as its format has
(30_encoding.md R71, R76). -/
def Statement (i : Instr) : Prop := wordsWellFormed (encode i) = true

theorem loadValue (v : Word) : Statement (.loadValue v) := rfl
theorem loadAddr (a : Word) : Statement (.loadAddr a) := rfl
theorem loadInd (a : Word) : Statement (.loadInd a) := rfl
theorem loadIdxX (b : Word) : Statement (.loadIdxX b) := rfl
theorem loadIdxY (b : Word) : Statement (.loadIdxY b) := rfl
theorem loadSpX : Statement .loadSpX := rfl
theorem store (a : Word) : Statement (.store a) := rfl
theorem get : Statement .get := rfl
theorem put (p : Word) : Statement (.put p) := rfl
theorem addX : Statement .addX := rfl
theorem addY : Statement .addY := rfl
theorem subX : Statement .subX := rfl
theorem subY : Statement .subY := rfl
theorem copyToX : Statement .copyToX := rfl
theorem copyFromX : Statement .copyFromX := rfl
theorem copyToY : Statement .copyToY := rfl
theorem copyFromY : Statement .copyFromY := rfl
theorem copyToSp : Statement .copyToSp := rfl
theorem copyFromSp : Statement .copyFromSp := rfl
theorem jump (t : Word) : Statement (.jump t) := rfl
theorem jumpIfEqual (t : Word) : Statement (.jumpIfEqual t) := rfl
theorem jumpIfNotEqual (t : Word) : Statement (.jumpIfNotEqual t) := rfl
theorem call (t : Word) : Statement (.call t) := rfl
theorem ret : Statement .ret := rfl
theorem incX : Statement .incX := rfl
theorem decX : Statement .decX := rfl
theorem push : Statement .push := rfl
theorem pop : Statement .pop := rfl
theorem int : Statement .int := rfl
theorem iret : Statement .iret := rfl
theorem endRun : Statement .endRun := rfl

end Sys2Proof.Laws.Codec
end

