-- ==== Sys2Proof/Laws/Step.lean ====
section
/-! SUPPORT. What the decoder, the admission check, the fetch, a checked load, a timer entry and a whole step can do:
one inversion lemma each, so that proofs about `step` do not unfold the cycle. -/

namespace Sys2Proof.Machine

open Sys2Proof Sys2Proof.Config

/-- A code whose shape is one word is the code of that instruction, which has no operand (30_encoding.md R71, R77). -/
theorem decodeOpcode_one {n i} (h : decodeOpcode n = some (.one i)) : i.operand = none ∧
  (opcodeWord i).toNat = n := by
  unfold decodeOpcode at h
  split at h <;> simp at h <;> subst h <;> exact ⟨rfl, rfl⟩

/-- A code whose shape is two words is the code of every instruction it makes of an operand (30_encoding.md R71,
R77). -/
theorem decodeOpcode_two {n f} (h : decodeOpcode n = some (.two f)) (v : Word) : (f v).operand = some v ∧
  (opcodeWord (f v)).toNat = n := by
  unfold decodeOpcode at h
  split at h <;> simp at h <;> subst h <;> exact ⟨rfl, rfl⟩

/-- Everything a checked load that answers a next state did (40_load_store.md R101, R103 to R105). -/
theorem loadChecked_next {a : Word} {s t : State} (h : loadChecked a s = .next t) :
  (Ready s ∧ Cell a ∧ ¬ Violation s a ∧
    t = { s with ac := s.mem.read a.toNat, pc := wrap (s.pc.toInt + 1), trace := s.trace ++ [.read a] }) ∨
  (Violation s a ∧ s.cpu = .idle ∧ t = faultedState (.memoryViolation a .user s.pc) s) ∨
  (¬ Violation s a ∧ ¬ Cell a ∧ s.cpu = .idle ∧ t = faultedState (.outOfRange a s.mode s.pc) s) := by
  unfold loadChecked at h
  rcases checkedRead_cases a s with ⟨h1, h2, h3, h4⟩ | ⟨h1, h2, h3⟩ | ⟨h1, h2, h3, h4⟩ | ⟨f, h4⟩ <;> first | rw [h4] at h | rw [h3] at h
  · cases h; exact .inl ⟨h3, (inRange_iff_cell _).1 h2, (not_violates_iff _ _).1 h1, rfl⟩
  · cases h; have := (violates_iff _ _).1 h1; exact .inr (.inl ⟨this, h2, by rw [this.1]⟩)
  · cases h; exact .inr (.inr ⟨(not_violates_iff _ _).1 h1, (not_inRange_iff _).1 h2, h3, rfl⟩)
  · cases h

/-- Everything LoadInd that answers a next state did (40_load_store.md R102). -/
theorem execLoadInd_next {a : Word} {s t : State} (h : execLoadInd a s = .next t) :
  (Ready s ∧ Cell a ∧ Cell (s.mem.read a.toNat) ∧
    t = { s with
      ac := s.mem.read (s.mem.read a.toNat).toNat
      pc := wrap (s.pc.toInt + 1)
      trace := s.trace ++ [.read a, .read (s.mem.read a.toNat)] }) ∨
  (Violation s a ∧ s.cpu = .idle ∧ t = faultedState (.memoryViolation a .user s.pc) s) ∨
  (¬ Cell a ∧ s.cpu = .idle ∧ t = faultedState (.outOfRange a s.mode s.pc) s) ∨
  (∃ b, Violation s b ∧ Cell a ∧ Ready s ∧
    t = faultedState (.memoryViolation b .user s.pc) { s with trace := s.trace ++ [.read a] }) ∨
  (∃ b, ¬ Cell b ∧ Cell a ∧ Ready s ∧
    t = faultedState (.outOfRange b s.mode s.pc) { s with trace := s.trace ++ [.read a] })  := by
  unfold execLoadInd at h
  rcases checkedRead_cases a s with ⟨h1, h2, h3, h4⟩ | ⟨h1, h2, h3⟩ | ⟨h1, h2, h3, h4⟩ | ⟨f, h4⟩ <;> first | rw [h4] at h | rw [h3] at h
  · rw [Act.finish_ok] at h
    have hc := (inRange_iff_cell _).1 h2
    rcases loadChecked_next h with ⟨k1, k2, k3, k4⟩ | ⟨k1, k2, k3⟩ | ⟨k1, k2, k3, k4⟩
    · refine .inl ⟨h3, hc, k2, ?_⟩; rw [k4]; simp
    · exact .inr (.inr (.inr (.inl ⟨_, k1, hc, h3, k3⟩)))
    · exact .inr (.inr (.inr (.inr ⟨_, k2, hc, h3, k4⟩)))
  · cases h; have := (violates_iff _ _).1 h1; exact .inr (.inl ⟨this, h2, by rw [this.1]⟩)
  · cases h; exact .inr (.inr (.inl ⟨(not_inRange_iff _).1 h2, h3, rfl⟩))
  · cases h

/-- Everything the admission check can do (60_exceptions.md R227). -/
theorem admissionCheck_cases (s : State) :
  (∃ t, admissionCheck s = .ok false t ∧ (t = s ∧ s.mode = .user ∨ t = s ∧ s.mode = .kernel ∧ timerDue s = false ∨
     s.mode = .kernel ∧ timerDue s = true ∧ s.pending < cntMax ∧
       t = timerServed { s with pending := s.pending + 1 })) ∨
  (∃ t, admissionCheck s = .ok true t ∧ s.mode = .user ∧ (timerDue s = true ∧
    t = timerServed { s with pending := s.pending - 1 } ∨ t = { s with pending := s.pending - 1 })) ∨
  (admissionCheck s = .stop (fatal (.counterOverflow s.pc) s) ∧ s.mode = .kernel ∧ cntMax ≤ s.pending) := by
  unfold admissionCheck raise
  split
  · next hm =>
    split
    · next h1 =>
      split
      · next h => exact .inr (.inr ⟨rfl, hm, h⟩)
      · next h => exact .inl ⟨_, rfl, .inr (.inr ⟨hm, h1, by omega, rfl⟩)⟩
    · next h1 => exact .inl ⟨_, rfl, .inr (.inl ⟨rfl, hm, by simpa using h1⟩)⟩
  · next hm =>
    split
    · next h1 => exact .inr (.inl ⟨_, rfl, hm, .inl ⟨h1, rfl⟩⟩)
    · split
      · exact .inr (.inl ⟨_, rfl, hm, .inr rfl⟩)
      · exact .inl ⟨_, rfl, .inl ⟨rfl, hm⟩⟩

/-- What NONE leaves: all but the pending count and the timer's record, and in user mode the whole state. -/
theorem admissionCheck_none {s t : State} (h : admissionCheck s = .ok false t) :
   t.pc = s.pc ∧ t.sp = s.sp ∧ t.ir = s.ir ∧ t.ac = s.ac ∧ t.x = s.x ∧ t.y = s.y ∧ t.mode = s.mode ∧
     t.instrCount = s.instrCount ∧ t.mem = s.mem ∧ t.out = s.out ∧ t.trace = s.trace ∧ t.status = s.status ∧
       t.cpu = s.cpu ∧ t.store = s.store ∧ t.params = s.params ∧ t.draws = s.draws ∧ (s.mode = .user → t = s) := by
  rcases admissionCheck_cases s with ⟨u, hu, h'⟩ | ⟨u, hu, h'⟩ | ⟨hu, h'⟩ <;> rw [hu] at h <;> cases h
  rcases h' with ⟨rfl, hm⟩ | ⟨rfl, hm, _⟩ | ⟨hm, h2, h3, rfl⟩
  · simp
  · simp
  · simp [hm]

/-- What ENTER leaves: user mode, one pending interrupt less, all else but the timer's record as it was. -/
theorem admissionCheck_enter {s t : State} (h : admissionCheck s = .ok true t) : s.mode = .user ∧
  t.pending = s.pending - 1 ∧
   t.pc = s.pc ∧ t.sp = s.sp ∧ t.ir = s.ir ∧ t.ac = s.ac ∧ t.x = s.x ∧ t.y = s.y ∧ t.mode = s.mode ∧
     t.instrCount = s.instrCount ∧ t.mem = s.mem ∧ t.out = s.out ∧ t.trace = s.trace ∧ t.status = s.status ∧
       t.cpu = s.cpu ∧ t.store = s.store ∧ t.params = s.params ∧ t.draws = s.draws := by
  rcases admissionCheck_cases s with ⟨u, hu, h'⟩ | ⟨u, hu, hm, h'⟩ | ⟨hu, h'⟩ <;> rw [hu] at h <;> cases h
  rcases h' with ⟨_, rfl⟩ | rfl <;> simp [hm]

/-- The admission check sends no message. -/
theorem ready_of_none {s t : State} (h : admissionCheck s = .ok false t) (hr : Ready s) : Ready t := by
  have := admissionCheck_none h
  simp_all [Ready]

/-- A fetch from a cell below the largest count (30_encoding.md R73). -/
theorem fetchOpcode_ready {t : State} (hr : Ready t) (hc : Cell t.pc) (hn : t.instrCount < cntMax) :
    fetchOpcode t = .ok (t.mem.read t.pc.toNat)
      { t with
        ir := t.mem.read t.pc.toNat
        instrCount := t.instrCount + 1
        trace := t.trace ++ [.read t.pc] } := by
  simp [fetchOpcode, memRead_ready hr ((inRange_iff_cell _).2 hc), Nat.not_le.mpr hn]

/-- Everything a timer-interrupt entry that answers a next state did (60_exceptions.md R230, R231). -/
theorem timerEntry_next {s1 t : State} (h : timerEntry s1 = .next t) : s1.cpu = .idle ∧ ∃ m st,
   t = { s1 with
      mode := .kernel
      sp := 1997
      pc := 1000
      mem := m
      store := st
      trace := s1.trace ++ [.write 1999 s1.sp, .write 1998 s1.pc] } ∧
      ((s1.store = .serving ∧ m = (s1.mem.write 1999 s1.sp).write 1998 s1.pc ∧ st = .serving) ∨
        (s1.store ≠ .serving ∧ m = s1.mem ∧ st = .terminated)) := by
  unfold timerEntry at h
  rcases trapEntry_cases timerVector s1.pc s1 with ⟨h1, m, st, h2, h3⟩ | h2 <;> rw [h2] at h <;> cases h
  exact ⟨h1, m, st, rfl, h3⟩

/-- Everything a step that answers a next state did: an overflow of the pending count, a timer entry,
a faulting fetch, an illegal opcode word, a faulting operand read,
or the execution of one instruction (30_encoding.md R72). -/
theorem step_next {s t : State} (h : step s = .next t) : s.status = .running ∧ s.params.ok = true ∧
  ((s.mode = .kernel ∧ cntMax ≤ s.pending ∧ admissionCheck s = .stop (.next t) ∧ s.cpu = .idle ∧
    t = faultedState (.counterOverflow s.pc) s) ∨
   (∃ s1, admissionCheck s = .ok true s1 ∧ timerEntry s1 = .next t) ∨
   (∃ s1, admissionCheck s = .ok false s1 ∧ (
      (¬ Cell s1.pc ∧ s1.cpu = .idle ∧ (∃ o, fetchOpcode s1 = .stop o) ∧
        t = faultedState (.outOfRange s1.pc s1.mode s1.pc) s1) ∨
      (Ready s1 ∧ Cell s1.pc ∧ (∃ o, fetchOpcode s1 = .stop o) ∧ cntMax ≤ s1.instrCount ∧
        t = faultedState (.counterOverflow s1.pc) { s1 with trace := s1.trace ++ [.read s1.pc] }) ∨
      (∃ s2, Ready s1 ∧ Cell s1.pc ∧ s1.instrCount < cntMax ∧ fetchOpcode s1 = .ok (s1.mem.read s1.pc.toNat) s2 ∧
         s2 = { s1 with
            ir := s1.mem.read s1.pc.toNat
            instrCount := s1.instrCount + 1
            trace := s1.trace ++ [.read s1.pc] } ∧
         ((decodeOpcode s2.ir.toNat = none ∧ t = faultedState (.illegalInstruction s2.ir s2.pc) s2) ∨
          (∃ i, decodeOpcode s2.ir.toNat = some (.one i) ∧ exec i s2 = .next t) ∨
          (∃ f, decodeOpcode s2.ir.toNat = some (.two f) ∧ ¬ Cell (wrap (s2.pc.toInt + 1)) ∧
            t = faultedState (.outOfRange (wrap (s2.pc.toInt + 1)) s2.mode (wrap (s2.pc.toInt + 1)))
              { s2 with pc := wrap (s2.pc.toInt + 1) }) ∨
          (∃ f, decodeOpcode s2.ir.toNat = some (.two f) ∧ Cell (wrap (s2.pc.toInt + 1)) ∧
            exec (f (s2.mem.read (wrap (s2.pc.toInt + 1)).toNat))
              { s2 with
                pc := wrap (s2.pc.toInt + 1)
                trace := s2.trace ++ [.read (wrap (s2.pc.toInt + 1))] } = .next t)))))) := by
  unfold step at h
  split at h
  swap; · cases h
  swap; · cases h
  next hs =>
  split at h
  swap; · cases h
  next hp =>
  refine ⟨hs, hp, ?_⟩
  unfold cycle at h
  rcases admissionCheck_cases s with ⟨s1, ha, -⟩ | ⟨s1, ha, -⟩ | ⟨ha, hm, hpd⟩ <;> rw [ha] at h
  · refine .inr (.inr ⟨s1, ha, ?_⟩)
    simp only [Act.finish_ok, fetchInstr] at h
    rcases memRead_cases s1.pc s1 with ⟨k1, k2, k3⟩ | ⟨k1, k2, k3⟩ | ⟨f, k3⟩
    · have hc := (inRange_iff_cell _).1 k1
      by_cases hn : s1.instrCount < cntMax
      · right; right
        have e := fetchOpcode_ready k2 hc hn
        refine ⟨_, k2, hc, hn, e, rfl, ?_⟩
        rw [e] at h
        simp only [Act.bind_ok, decodeIr] at h
        split at h
        · next hd => rw [raise, fatal_idle _ (by exact k2.1)] at h; cases h; exact .inl ⟨hd, rfl⟩
        · next i hd => exact .inr (.inl ⟨i, hd, h⟩)
        · next f hd =>
          right; right
          simp only [fetchOperand] at h
          by_cases hc2 : Cell (wrap (s1.pc.toInt + 1))
          · right; refine ⟨f, hd, hc2, ?_⟩
            rw [memRead_ready (by exact k2) (by exact (inRange_iff_cell _).2 hc2)] at h
            exact h
          · left; refine ⟨f, hd, hc2, ?_⟩
            rw [memRead_outOfRange (by exact k2.1) (by exact (not_inRange_iff _).2 hc2)] at h
            cases h; rfl
      · right; left
        have e : fetchOpcode s1 = .stop (.next (faultedState (.counterOverflow s1.pc) { s1 with trace :=
          s1.trace ++ [.read s1.pc] })) := by
          rw [fetchOpcode, k3]; simp [Nat.le_of_not_lt hn, raise]; rw [fatal_idle _ (by exact k2.1)]
        rw [e] at h; cases h
        exact ⟨k2, hc, ⟨_, e⟩, Nat.le_of_not_lt hn, rfl⟩
    · left
      have e : fetchOpcode s1 = .stop (.next (faultedState (.outOfRange s1.pc s1.mode s1.pc) s1)) :=
        by rw [fetchOpcode, k3]; rfl
      rw [e] at h; cases h
      exact ⟨(not_inRange_iff _).1 k1, k2, ⟨_, e⟩, rfl⟩
    · rw [fetchOpcode, k3] at h; cases h
  · exact .inr (.inl ⟨s1, ha, h⟩)
  · left
    rcases fatal_cases (.counterOverflow s.pc) s with ⟨h1, h2⟩ | h2
    · rw [h2] at h ha; cases h; exact ⟨hm, hpd, ha, h1, rfl⟩
    · rw [h2] at h; cases h

end Sys2Proof.Machine
end

