-- ==== Sys2Proof/Tests/Slice0.lean ====
section
/-! SUPPORT. The model's own tests: what WellFormed and Decode accept and refuse, one-step results taken from
95_test_vectors.md or computed by hand from the rule named, and for every statement with hypotheses a named witness
that meets them, at the boundary values of each clause. -/

namespace Sys2Proof.Tests

open Sys2Proof Sys2Proof.Config Sys2Proof.Machine

/-- What one outcome shows: the value of `f` in the next state, none if there is no next state. -/
def see {α : Type} (o : Out) (f : State → α) : Option α :=
  match o with
  | .next t => some (f t)
  | .fault _ => none
  | .refused _ => none

/-- The start state of 95_test_vectors.md section 0 with the cells `m`. -/
def start (m : Mem) : State := { State.reset with mem := m }

/-- The same in kernel mode. -/
def kstart (m : Mem) : State := { start m with mode := .kernel }

/-- The start state with another quantum. -/
def qstart (q : Nat) (m : Mem) : State := { start m with params := { defaultParams with quantum := q } }

/-- The start state with CHECK_STORES on. -/
def cstart (m : Mem) : State := { start m with params := { defaultParams with checkStores := true } }

/-- The outcome is a next state in which `p` holds. -/
def goes (o : Out) (p : State → Bool) : Bool :=
  match o with
  | .next t => p t
  | .fault _ => false
  | .refused _ => false

theorem next_of_goes {o : Out} {p : State → Bool} (h : goes o p = true) : ∃ t, o = .next t ∧ p t = true := by
  cases o with
  | next t => exact ⟨t, rfl, h⟩
  | fault r => cases h
  | refused r => cases h

theorem inv_start (m : Mem) (h : m.Wf) : Inv (start m) where
  memWf := h
  instrCountLe := by show 0 ≤ cntMax; decide
  pendingLe := by show 0 ≤ cntMax; decide
  whileRunning := fun _ => ⟨⟨rfl, rfl⟩, List.not_mem_nil⟩
  afterEnd := fun hs => absurd rfl hs
  traceInRange := fun _ hr => absurd hr List.not_mem_nil
  recordFits := fun _ hr => by cases hr

/-! ## WellFormed: one ill-formed sequence for each check (30_encoding.md R71, R76) -/

/-- An F2 and an F1 instruction. -/
theorem test_wf_accepts : wordsWellFormed [1, -7] = true ∧ wordsWellFormed [50] = true := by decide

/-- No opcode word. -/
theorem test_wf_no_words : wordsWellFormed [] = false := by decide

/-- The opcode word is no code: the neighbours of the map, and a negative word (V-FLT code 2). -/
theorem test_wf_illegal_opcode :
    wordsWellFormed [0] = false ∧ wordsWellFormed [31] = false ∧ wordsWellFormed [49] = false ∧
    wordsWellFormed [51] = false ∧ wordsWellFormed [-1] = false := by decide

/-- An F1 code with a word too many. -/
theorem test_wf_extra_word : wordsWellFormed [10, 0] = false := by decide

/-- An F2 code without its operand word, and with a word too many. -/
theorem test_wf_missing_operand : wordsWellFormed [20] = false ∧ wordsWellFormed [20, 0, 0] = false := by decide

/-! ## Decode: a word written out from the table for every constructor (30_encoding.md R70, R71, R77) -/

theorem test_decode_loads :
    decode [0x00000001, 0xFFFFFFF9] = .ok (.loadValue 0xFFFFFFF9, []) ∧
    decode [0x00000002, 0x000003E7] = .ok (.loadAddr 0x000003E7, []) ∧
    decode [0x00000003, 0x000001F4] = .ok (.loadInd 0x000001F4, []) ∧
    decode [0x00000004, 0x7FFFFFFF] = .ok (.loadIdxX 0x7FFFFFFF, []) ∧
    decode [0x00000005, 0x80000000] = .ok (.loadIdxY 0x80000000, []) := by
  refine ⟨rfl, rfl, rfl, rfl, rfl⟩

theorem test_decode_other_two_word :
    decode [0x00000007, 0x0000012C] = .ok (.store 0x0000012C, []) ∧
    decode [0x00000009, 0x00000002] = .ok (.put 0x00000002, []) ∧
    decode [0x00000014, 0x000007D0] = .ok (.jump 0x000007D0, []) ∧
    decode [0x00000015, 0x00000028] = .ok (.jumpIfEqual 0x00000028, []) ∧
    decode [0x00000016, 0xFFFFFFFF] = .ok (.jumpIfNotEqual 0xFFFFFFFF, []) ∧
    decode [0x00000017, 0x0000000A] = .ok (.call 0x0000000A, []) := by
  refine ⟨rfl, rfl, rfl, rfl, rfl, rfl⟩

theorem test_decode_one_word_a :
    decode [0x00000006] = .ok (.loadSpX, []) ∧
    decode [0x00000008] = .ok (.get, []) ∧
    decode [0x0000000A] = .ok (.addX, []) ∧
    decode [0x0000000B] = .ok (.addY, []) ∧
    decode [0x0000000C] = .ok (.subX, []) ∧
    decode [0x0000000D] = .ok (.subY, []) ∧
    decode [0x0000000E] = .ok (.copyToX, []) ∧
    decode [0x0000000F] = .ok (.copyFromX, []) ∧
    decode [0x00000010] = .ok (.copyToY, []) ∧
    decode [0x00000011] = .ok (.copyFromY, []) := by
  refine ⟨rfl, rfl, rfl, rfl, rfl, rfl, rfl, rfl, rfl, rfl⟩

theorem test_decode_one_word_b :
    decode [0x00000012] = .ok (.copyToSp, []) ∧
    decode [0x00000013] = .ok (.copyFromSp, []) ∧
    decode [0x00000018] = .ok (.ret, []) ∧
    decode [0x00000019] = .ok (.incX, []) ∧
    decode [0x0000001A] = .ok (.decX, []) ∧
    decode [0x0000001B] = .ok (.push, []) ∧
    decode [0x0000001C] = .ok (.pop, []) ∧
    decode [0x0000001D] = .ok (.int, []) ∧
    decode [0x0000001E] = .ok (.iret, []) ∧
    decode [0x00000032] = .ok (.endRun, []) := by
  refine ⟨rfl, rfl, rfl, rfl, rfl, rfl, rfl, rfl, rfl, rfl⟩

theorem test_decode_leaves_rest :
    decode [8, 1, 5] = .ok (.get, [1, 5]) ∧ decode [1, 5, 9] = .ok (.loadValue 5, [9]) := ⟨rfl, rfl⟩

/-- No low-order part of a word is an opcode: 10001H is illegal (30_encoding.md R70). -/
theorem test_decode_refuses_by_name :
    decode [] = .error .noWord ∧ decode [0, 1] = .error (.illegalOpcode 0) ∧
    decode [31] = .error (.illegalOpcode 31) ∧ decode [0x00010001, 1] = .error (.illegalOpcode 0x00010001) ∧
    decode [23] = .error (.missingOperand 23) := ⟨rfl, rfl, rfl, rfl, rfl⟩

theorem test_table_word :
    decodeTableWord 64 0x000004B000000002 = some (.loadAddr 1200) ∧ decodeTableWord 32 50 = some .endRun ∧
    decodeTableWord 32 7 = some (.store 0) ∧ decodeTableWord 32 0 = none := ⟨rfl, rfl, rfl, rfl⟩

/-- LD1 and SY7 by way of `withFetchWord`. -/
theorem test_fetch_word_runs :
    see (step (State.reset.withFetchWord 64 0xFFFFFFF900000001)) (fun t => (t.ac, t.pc)) = some (-7, 2) ∧
    see (step (State.reset.withFetchWord 32 50))
      (fun t => (t.status, t.exitStatus)) = some (.halted, some 0) := by decide

/-! ## One step: loads and stores (V-LD) -/

/-- LD1. -/
theorem test_loadValue :
    see (step (start [(0, 1), (1, -7)])) (fun t => (t.ac, t.pc, t.instrCount, t.ir)) =
      some (-7, 2, 1, 1) := by decide

/-- LD3. -/
theorem test_loadValue_at_top :
    see (step { start [(1999, 1)] with pc := 1999 }) (fun t => (t.status, t.pc, t.instrCount)) =
      some (.faulted (.outOfRange 2000 .user 2000), 2000, 1) := by decide

/-- LD4. -/
theorem test_loadAddr :
    see (step (start [(0, 2), (1, 999), (999, 5)])) (fun t => (t.ac, t.pc, t.trace)) =
      some (5, 2, [.read 0, .read 1, .read 999]) := by decide

/-- LD9. -/
theorem test_loadAddr_violation_first :
    see (step (start [(0, 2), (1, 2000)])) (fun t => (t.status, t.trace)) =
      some (.faulted (.memoryViolation 2000 .user 1), [.read 0, .read 1, .shutdown]) := by decide

/-- LD13. -/
theorem test_loadInd :
    see (step (start [(0, 3), (1, 50), (50, 50)])) (fun t => (t.ac, t.pc)) =
      some (50, 2) := by decide

/-- LD11. -/
theorem test_loadInd_second_address :
    see (step (start [(0, 3), (1, 500), (500, 1200)])) (fun t => (t.status, t.trace)) =
      some (.faulted (.memoryViolation 1200 .user 1),
        [.read 0, .read 1, .read 500, .shutdown]) := by decide

/-- LD15. -/
theorem test_loadIdxX :
    see (step { start [(0, 4), (1, 1000), (999, 77)] with x := -1 }) (fun t => (t.ac, t.pc)) =
      some (77, 2) := by decide

/-- LD16. -/
theorem test_loadIdxX_wraps :
    see (step { start [(0, 4), (1, 2147483647)] with x := 1 }) (fun t => t.status) =
      some (.faulted (.outOfRange (-2147483648) .user 1)) := by decide

/-- LD18. -/
theorem test_loadIdxY :
    see (step { start [(0, 5), (1, 200), (199, 4)] with y := -1 }) (fun t => (t.ac, t.pc)) =
      some (4, 2) := by decide

/-- LD19. -/
theorem test_loadSpX :
    see (step { start [(0, 6), (998, 11), (999, 22)] with sp := 997, x := 1 }) (fun t => (t.ac, t.pc, t.sp)) =
      some (22, 1, 997) := by decide

/-- LD22. -/
theorem test_loadSpX_kernel :
    see (step (kstart [(0, 6), (1000, 4)])) (fun t => (t.ac, t.sp)) =
      some (4, 999) := by decide

/-- LD24. -/
theorem test_store :
    see (step { start [(0, 7), (1, 1200)] with ac := 5 }) (fun t => (t.mem, t.pc, t.status)) =
      some ([(0, 7), (1, 1200), (1200, 5)], 2, .running) := by decide

/-- LD27. -/
theorem test_store_own_operand :
    see (step { start [(0, 7), (1, 1)] with ac := 9 }) (fun t => (t.mem, t.pc, t.trace)) =
      some ([(0, 7), (1, 9)], 2, [.read 0, .read 1, .write 1 9]) := by decide

/-! ## One step: random value and output (V-IO) -/

/-- IO2: what the rule fixes besides the drawn value. -/
theorem test_get :
    see (step (start [(0, 8)])) (fun t => (t.pc, t.draws, t.out, t.trace)) =
      some (1, 1, [], [.read 0]) := by decide

/-- IO5. -/
theorem test_put_char :
    see (step { start [(0, 9), (1, 2)] with ac := -1 }) (fun t => (t.out, t.pc, t.ac)) =
      some ([.char (-1)], 2, -1) := by decide

/-- IO6. -/
theorem test_put_illegal_port :
    see (step (start [(0, 9), (1, 3)])) (fun t => (t.status, t.out)) =
      some (.faulted (.illegalPort 3 1), []) := by decide

/-! ## One step: arithmetic and register transfer (V-ALU, V-RT) -/

/-- AL2. -/
theorem test_addX :
    see (step { start [(0, 10)] with ac := 2147483647, x := 1 }) (fun t => (t.ac, t.x, t.pc)) =
      some (-2147483648, 1, 1) := by decide

/-- AL5. -/
theorem test_addY :
    see (step { start [(0, 11)] with ac := 2147483647, y := 2147483647, x := 5 }) (fun t => (t.ac, t.pc)) =
      some (-2, 1) := by decide

/-- AL7. -/
theorem test_subX :
    see (step { start [(0, 12)] with ac := 3, x := 10 }) (fun t => (t.ac, t.pc)) =
      some (-7, 1) := by decide

/-- AL11. -/
theorem test_subY :
    see (step { start [(0, 13)] with y := -2147483648, x := 1 }) (fun t => (t.ac, t.pc)) =
      some (-2147483648, 1) := by decide

/-- AL13. -/
theorem test_incX :
    see (step { start [(0, 25)] with x := 2147483647 }) (fun t => (t.x, t.ac, t.pc)) =
      some (-2147483648, 0, 1) := by decide

/-- AL15. -/
theorem test_decX :
    see (step { start [(0, 26)] with x := -2147483648 }) (fun t => (t.x, t.ac, t.pc)) =
      some (2147483647, 0, 1) := by decide

/-- RT1. -/
theorem test_copyToX :
    see (step { start [(0, 14)] with ac := 9 }) (fun t => (t.x, t.ac, t.pc)) =
      some (9, 9, 1) := by decide

/-- RT2. -/
theorem test_copyFromX :
    see (step { start [(0, 15)] with x := -2 }) (fun t => (t.ac, t.x, t.pc)) =
      some (-2, -2, 1) := by decide

/-- RT3. -/
theorem test_copyToY :
    see (step { start [(0, 16)] with y := 5 }) (fun t => (t.y, t.ac, t.pc)) =
      some (0, 0, 1) := by decide

/-- RT4. -/
theorem test_copyFromY :
    see (step { start [(0, 17)] with y := 100 }) (fun t => (t.ac, t.y, t.pc)) =
      some (100, 100, 1) := by decide

/-- RT6. -/
theorem test_copyToSp :
    see (step { start [(0, 18)] with ac := -5 }) (fun t => (t.sp, t.ac, t.pc, t.status)) =
      some (-5, -5, 1, .running) := by decide

/-- RT7. -/
theorem test_copyFromSp :
    see (step (start [(0, 19)])) (fun t => (t.ac, t.sp, t.pc)) =
      some (999, 999, 1) := by decide

/-! ## One step: control transfer (V-CT) -/

/-- CT2, cycle 1. -/
theorem test_jump :
    see (step (start [(0, 20), (1, 2000)])) (fun t => (t.pc, t.status)) =
      some (2000, .running) := by decide

/-- CT2, cycle 2. -/
theorem test_jump_then_fetch :
    see (step { start [(0, 20), (1, 2000)] with pc := 2000, instrCount := 1, ir := 20 })
      (fun t => (t.status, t.instrCount)) =
      some (.faulted (.outOfRange 2000 .user 2000), 1) := by decide

/-- CT5. -/
theorem test_jumpIfEqual :
    see (step { start [(10, 21), (11, 40)] with pc := 10 }) (fun t => t.pc) =
      some 40 := by decide

/-- CT7. -/
theorem test_jumpIfEqual_not_taken :
    see (step { start [(10, 21), (11, 40)] with pc := 10, ac := -1 }) (fun t => t.pc) =
      some 12 := by decide

/-- CT9. -/
theorem test_jumpIfNotEqual :
    see (step { start [(10, 22), (11, 7)] with pc := 10, ac := -3 }) (fun t => t.pc) =
      some 7 := by decide

/-- CT10. -/
theorem test_jumpIfNotEqual_not_taken :
    see (step { start [(10, 22), (11, 7)] with pc := 10 }) (fun t => t.pc) =
      some 12 := by decide

/-- CT11. -/
theorem test_call :
    see (step { start [(2, 23), (3, 10)] with pc := 2 }) (fun t => (t.sp, t.pc, t.trace)) =
      some (998, 10, [.read 2, .read 3, .write 999 4]) := by decide

/-- CT12. -/
theorem test_call_unwritable :
    see (step { start [(2, 23), (3, 10)] with pc := 2, sp := -1 }) (fun t => (t.status, t.sp)) =
      some (.faulted (.outOfRange (-1) .user 3), -1) := by decide

/-- CT15. -/
theorem test_ret :
    see (step (start [(0, 24), (1000, 5)])) (fun t => (t.sp, t.pc, t.status)) =
      some (1000, 5, .running) := by decide

/-- CT16. -/
theorem test_ret_past_top :
    see (step { kstart [(0, 24)] with sp := 1999 }) (fun t => (t.status, t.sp)) =
      some (.faulted (.outOfRange 2000 .kernel 0), 2000) := by decide

/-! ## One step: stack and system (V-ST, V-SYS) -/

/-- ST2. -/
theorem test_push :
    see (step { start [(0, 27)] with sp := 0, ac := 3 }) (fun t => (t.mem, t.sp, t.pc)) =
      some ([(0, 3)], -1, 1) := by decide

/-- ST3. -/
theorem test_push_below :
    see (step { start [(0, 27)] with sp := -1 }) (fun t => (t.status, t.sp)) =
      some (.faulted (.outOfRange (-1) .user 0), -1) := by decide

/-- ST7. -/
theorem test_pop :
    see (step (start [(0, 28), (1000, 30)])) (fun t => (t.ac, t.sp, t.pc)) =
      some (30, 1000, 1) := by decide

/-- ST8. -/
theorem test_pop_past_top :
    see (step { start [(0, 28)] with sp := 1999, ac := 6 }) (fun t => (t.status, t.sp, t.ac)) =
      some (.faulted (.outOfRange 2000 .user 0), 2000, 6) := by decide

/-- SY2. -/
theorem test_int :
    see (step { start [(4, 29)] with pc := 4, sp := -5 }) (fun t => (t.mode, t.mem, t.sp, t.pc, t.trace)) =
      some (.kernel, [(4, 29), (1998, 5), (1999, -5)], 1997, 1500,
        [.read 4, .write 1999 (-5), .write 1998 5]) := by decide

/-- SY3. -/
theorem test_int_kernel :
    see (step { kstart [(1500, 29)] with pc := 1500 }) (fun t => (t.status, t.mode)) =
      some (.faulted (.kernelSyscall 1500), .kernel) := by decide

/-- SY6. -/
theorem test_iret :
    see (step { start [(0, 30), (998, 8), (999, 999)] with sp := 997 }) (fun t => (t.mode, t.pc, t.sp)) =
      some (.user, 8, 999) := by decide

/-- SY5. -/
theorem test_iret_second_pop :
    see (step { kstart [(1500, 30), (1999, 7)] with pc := 1500, sp := 1998 })
      (fun t => (t.status, t.sp, t.mode, t.pc)) =
      some (.faulted (.outOfRange 2000 .user 7), 2000, .user, 7) := by decide

/-- SY8, and its trace as in SY7. -/
theorem test_endRun :
    see (step { kstart [(1500, 50)] with pc := 1500, pending := 2 })
      (fun t => (t.status, t.exitStatus, t.mode, t.pc, t.trace)) =
      some (.halted, some 0, .kernel, 1500, [.read 1500, .shutdown]) := by decide

/-! ## One step: admission and faults of the cycle (V-ADM, V-FLT) -/

/-- E3, cycle 4 (AD3). -/
theorem test_timer_entry :
    see (step { qstart 3 [(3, 25), (1000, 30)] with pc := 3, instrCount := 3, x := 3, ir := 25 })
      (fun t => (t.pc, t.sp, t.mode, t.instrCount, t.trace)) =
      some (1000, 1997, .kernel, 3, [.write 1999 999, .write 1998 3]) := by decide

/-- AD5. -/
theorem test_timer_serves_both :
    see (step { qstart 3 [(0, 25)] with instrCount := 3, pending := 2 }) (fun t => (t.pc, t.pending)) =
      some (1000, 1) := by decide

/-- P4, cycle 5 (AD6). -/
theorem test_timer_queues_in_kernel :
    see (step { qstart 3 [(1000, 30), (1998, 3), (1999, 999)] with
      mode := .kernel, pc := 1000, sp := 1997, instrCount := 3 })
        (fun t => (t.pc, t.sp, t.mode, t.instrCount, t.pending)) =
      some (3, 999, .user, 4, 1) := by decide

/-- AD8. -/
theorem test_timer_count_overflow :
    see (step { qstart 3 [] with mode := .kernel, instrCount := 3, pending := 2147483647, pc := 7 })
      (fun t => (t.status, t.pending, t.trace)) =
      some (.faulted (.counterOverflow 7), 2147483647, [.shutdown]) := by decide

/-- AD1. -/
theorem test_timer_not_at_zero :
    see (step (qstart 3 [(0, 25)])) (fun t => (t.pc, t.x)) =
      some (1, 1) := by decide

/-- V-FLT code 2 at cell 1999: decode comes before any operand read. -/
theorem test_illegal_at_top :
    see (step { start [(1999, 49)] with pc := 1999 }) (fun t => (t.status, t.instrCount, t.ir)) =
      some (.faulted (.illegalInstruction 49 1999), 1, 49) := by decide

/-- V-FLT code 6. -/
theorem test_fetch_count_overflow :
    see (step { start [(0, 25)] with instrCount := 2147483647 }) (fun t => (t.status, t.instrCount, t.x, t.trace)) =
      some (.faulted (.counterOverflow 0), 2147483647, 0, [.read 0, .shutdown]) := by decide

/-- V-FLT code 8. -/
theorem test_config_error : startUp 0 (some []) defaultLaunch = .noRun .configError 1 := by decide

/-- 60_exceptions.md R238. -/
theorem test_fault_codes :
    [FaultRecord.memoryViolation 0 .user 0, .illegalInstruction 0 0, .outOfRange 0 .user 0, .illegalPort 0 0,
      .kernelSyscall 0, .counterOverflow 0, .protocolError, .configError].map FaultRecord.code = [1, 2, 3, 4, 5, 6, 7, 8] := by decide

/-- 70_reset_and_hazards.md R266, by hand. -/
theorem test_image :
    loadImage [.value 1, .value 72, .comment, .loadAt 10, .value 27, .loadAt 0, .value 9] 0 [] =
      some [(0, 9), (1, 72), (10, 27)] := by decide

/-- Writing what an unlisted cell reads as removes the entry. -/
theorem test_memory_canonical :
    Mem.write [(3, 1), (5, 2)] 3 0 = [(5, 2)] ∧ Mem.write [(3, 1), (5, 2)] 4 7 = [(3, 1), (4, 7), (5, 2)] ∧
    Mem.Wf [(3, 1), (4, 7), (5, 2)] ∧ ¬ Mem.Wf [(3, 0)] ∧ ¬ Mem.Wf [(2000, 1)] ∧ ¬ Mem.Wf [(4, 1), (3, 1)] := by decide

/-! ## Witnesses: launch and cycle -/

/-- LaunchStartsOnlyWithGoodConfiguration: quantum 0, a value past cell 1999, and a good launch. -/
theorem test_witness_launch :
    (0 : Int) < 1 ∧ loadImage [.loadAt 1999, .value 5, .value 6] 0 defaultLaunch.image = none ∧
    (1 : Int) ≤ 1 ∧ loadImage [.loadAt 1999, .value 5] 0 defaultLaunch.image = some [(1999, 5)] := by decide

/-- ImageLoadsValuesAtConsecutiveCells, up to the last cell. -/
theorem test_witness_image :
    Mem.Wf [(7, 3)] ∧ 1998 + ([4, 5] : List Word).length ≤ 2000 ∧ 1 < ([4, 5] : List Word).length ∧
    (1997 < 1998 ∨ 1998 + ([4, 5] : List Word).length ≤ 1997) := by decide

/-- StepRunsTheDecodedInstruction at the last cell. -/
theorem test_witness_step_runs_one_word :
    Runs { start [(1999, 10)] with pc := 1999 } ∧ admissionCheck { start [(1999, 10)] with pc := 1999 } =
      .ok false { start [(1999, 10)] with pc := 1999 } ∧
    Cell 1999 ∧ 0 < cntMax ∧ decode [Mem.read [(1999, 10)] 1999] = .ok (.addX, []) := by
  refine ⟨by decide, rfl, by decide, by decide, rfl⟩

/-- The same for `F2`, in the last two cells and at the last count; also RunsWithOperand where the operand is a cell. -/
theorem test_witness_step_runs_two_words :
    Runs { start [(1998, 1), (1999, -7)] with pc := 1998, instrCount := 2147483646 } ∧
    admissionCheck { start [(1998, 1), (1999, -7)] with pc := 1998, instrCount := 2147483646 } =
      .ok false { start [(1998, 1), (1999, -7)] with pc := 1998, instrCount := 2147483646 } ∧
    Cell 1998 ∧ 2147483646 < cntMax ∧ decode [Mem.read [(1998, 1), (1999, -7)] 1998, -7] = .ok (.loadValue (-7), []) ∧
    Cell (wrap (BitVec.toInt (1998 : Word) + 1)) ∧
    Mem.read [(1998, 1), (1999, -7)] (wrap (BitVec.toInt (1998 : Word) + 1)).toNat = -7 := by
  refine ⟨by decide, rfl, by decide, by decide, rfl, by decide, by decide⟩

/-- FaultingFetchKeepsCountAndIr. -/
theorem test_witness_faulting_fetch :
    (Runs { start [] with pc := 2000 } ∧ admissionCheck { start [] with pc := 2000 } =
      .ok false { start [] with pc := 2000 } ∧ ¬ Cell 2000) ∧
    (Runs { start [] with pc := -1 } ∧ admissionCheck { start [] with pc := -1 } =
      .ok false { start [] with pc := -1 } ∧ ¬ Cell (-1)) ∧
    Runs { start [] with pc := 1999, instrCount := 2147483647 } ∧
    admissionCheck { start [] with pc := 1999, instrCount := 2147483647 } =
      .ok false { start [] with pc := 1999, instrCount := 2147483647 } ∧
    Cell 1999 ∧ 2147483647 = cntMax := by
  refine ⟨⟨by decide, rfl, by decide⟩, ⟨by decide, rfl, by decide⟩, by decide, rfl, by decide, by decide⟩

/-- OtherOpcodeWordRaisesIllegalInstruction: 0 in the reset memory, and the neighbours of the codes. -/
theorem test_witness_illegal :
    (Runs (start []) ∧ admissionCheck (start []) = .ok false (start []) ∧ Cell 0) ∧ 0 < cntMax ∧
    ([0, 31, 49, 51, -1] : List Word).all (fun w => decide (¬ ((1 ≤ w.toInt ∧
    w.toInt ≤ 30) ∨ w.toInt = 50))) = true := by
  refine ⟨⟨by decide, rfl, by decide⟩, by decide, by decide⟩

/-- RunsAlone, and RunsWithOperand where the operand is no cell, for every opcode word at the last cell. -/
theorem test_witness_operand_read :
    ∀ w : Word, Runs { start [(1999, w)] with pc := 1999 } ∧
      admissionCheck { start [(1999, w)] with pc := 1999 } = .ok false { start [(1999, w)] with pc := 1999 } ∧
      Cell 1999 ∧ 0 < cntMax ∧ Mem.read [(1999, w)] 1999 = w ∧
      ¬ Cell (wrap (BitVec.toInt (1999 : Word) + 1)) := fun _ =>
  ⟨⟨rfl, rfl, rfl, rfl⟩, rfl, by decide, by decide, rfl, by decide⟩

/-- EndedRunTakesNoCycle. -/
theorem test_witness_ended :
    ({ start [] with status := .halted } : State).status = .halted ∧
    ({ start [] with status := .faulted (.counterOverflow 0) } : State).status = .faulted (.counterOverflow 0) ∧
    (qstart 0 []).status = .running ∧ (qstart 0 []).params.ok = false := by decide

/-! ## Witnesses: timer and traps -/

/-- TimerFiresAtNonzeroMultiplesOfTheQuantum. -/
theorem test_witness_timer : (qstart 3 []).params.admitOnce = false := by decide

/-- AdmissionCheckQueuesOrEnters, each clause (AD8 and its neighbour, AD7, AD3, AD4, AD1). -/
theorem test_witness_admission :
    (∃ s : State, s.params.admitOnce = false ∧ s.cpu = .idle ∧ s.mode = .kernel ∧ TimerT s ∧ s.pending < cntMax) ∧
    (∃ s : State, s.params.admitOnce = false ∧ s.cpu = .idle ∧ s.mode = .kernel ∧ TimerT s ∧ s.pending = cntMax) ∧
    (∃ s : State, s.params.admitOnce = false ∧ s.cpu = .idle ∧ s.mode = .kernel ∧ ¬ TimerT s) ∧
    (∃ s : State, s.params.admitOnce = false ∧ s.cpu = .idle ∧ s.mode = .user ∧ TimerT s ∧ s.pending = 0) ∧
    (∃ s : State, s.params.admitOnce = false ∧ s.cpu = .idle ∧ s.mode = .user ∧ ¬ TimerT s ∧ 0 < s.pending) ∧
    (∃ s : State, s.params.admitOnce = false ∧ s.cpu = .idle ∧ s.mode = .user ∧ ¬ TimerT s ∧
    s.pending = 0) := ⟨⟨{ qstart 3 [] with mode := .kernel, instrCount := 3, pending := 2147483646 }, by decide⟩, ⟨{ qstart 3 [] with mode := .kernel, instrCount := 3, pending := 2147483647 }, by decide⟩,
    ⟨{ qstart 3 [] with mode := .kernel, instrCount := 4 }, by decide⟩, ⟨{ qstart 3 [] with instrCount := 3 }, by decide⟩,
    ⟨{ qstart 3 [] with instrCount := 4, pending := 1 }, by decide⟩, ⟨qstart 3 [], by decide⟩⟩

/-- AdmitOnceFiresOncePerCount. -/
theorem test_witness_admit_once :
    (∃ s : State, s.params.admitOnce = true ∧ s.timerServedAt = some s.instrCount) ∧
    (∃ s : State, s.params.admitOnce = true ∧ s.mode = .user ∧ TimerT s ∧ s.timerServedAt ≠ some s.instrCount) ∧
    (∃ s : State, s.params.admitOnce = true ∧ s.mode = .kernel ∧ TimerT s ∧ s.timerServedAt ≠ some s.instrCount ∧
      s.pending < cntMax) := ⟨⟨{ start [] with params := { defaultParams with admitOnce := true }, timerServedAt := some 0 }, by decide⟩,
    ⟨{ start [] with params := { defaultParams with admitOnce := true, quantum := 3 }, instrCount := 3 }, by decide⟩,
    ⟨{ start [] with
        params := { defaultParams with admitOnce := true, quantum := 3 }
        instrCount := 6
        timerServedAt := some 3
        mode := .kernel }, by decide⟩⟩

/-- TimerEntryIsOneWholeStep, by T and by a pending interrupt. -/
theorem test_witness_timer_entry :
    Runs { qstart 3 [] with instrCount := 3 } ∧
    TimerT { qstart 3 [] with instrCount := 3 } ∧
    Runs { start [] with pending := 1 } ∧ 0 < ({ start [] with pending := 1 } : State).pending ∧
    (start []).mode = .user ∧ (start []).params.admitOnce = false := by decide

/-- TimerEntryThenIRetRestores and TimerEntryReentersOnceAfterIRet. -/
theorem test_witness_timer_then_iret :
    Runs { qstart 3 [(1000, 30)] with instrCount := 3, pending := 2147483647 } ∧ Mem.Wf [(1000, 30)] ∧
    TimerT { qstart 3 [(1000, 30)] with instrCount := 3, pending := 2147483647 } ∧ 3 < cntMax ∧ 2147483647 ≤ cntMax ∧
    Mem.read [(1000, 30)] 1000 = 30 ∧ (qstart 3 [(1000, 30)]).mode = .user ∧
    (qstart 3 [(1000, 30)]).params.admitOnce = false := by decide

/-- QuantumOneNeverRunsUserInstruction, both clauses (P9). -/
theorem test_witness_quantum_one :
    (∃ t, step { qstart 1 [(0, 25)] with instrCount := 1 } = .next t ∧ decide (t.mode = .kernel) = true) ∧
    (∃ t, step { qstart 1 [(1000, 30)] with instrCount := 1, mode := .kernel, pc := 1000, sp := 1997 } = .next t ∧
      decide (t.status = .running) = true) ∧ Runs { qstart 1 [(0, 25)] with instrCount := 1 } ∧
    Runs { qstart 1 [(1000, 30)] with instrCount := 1, mode := .kernel, pc := 1000, sp := 1997 } := ⟨next_of_goes (by decide), next_of_goes (by decide), by decide, by decide⟩

/-- SyscallThenIRetReturnsAfterTheCall (E7). -/
theorem test_witness_syscall_then_iret :
    Runs { start [(4, 29), (1500, 30)] with pc := 4 } ∧ Mem.Wf [(4, 29), (1500, 30)] ∧
    admissionCheck { start [(4, 29), (1500, 30)] with pc := 4 } =
      .ok false { start [(4, 29), (1500, 30)] with pc := 4 } ∧
    0 + 1 < cntMax ∧ 0 < cntMax ∧ Cell 4 ∧ Mem.read [(4, 29), (1500, 30)] 4 = 29 ∧
    Mem.read [(4, 29), (1500, 30)] 1500 = 30 := by
  refine ⟨by decide, by decide, rfl, by decide, by decide, by decide, by decide, by decide⟩

/-! ## Witnesses: instructions -/

/-- LoadsFrom, each clause at its boundary. -/
theorem test_witness_loads :
    Ready (start []) ∧ Violation (start []) 1000 ∧ (¬ Violation (start []) (-1) ∧ ¬ Cell (-1)) ∧
    (¬ Violation (kstart []) 2000 ∧ ¬ Cell 2000) ∧ (¬ Violation (start []) 999 ∧ Cell 999) ∧
    (¬ Violation (kstart []) 1999 ∧ Cell 1999) ∧ (¬ Violation (start []) 0 ∧ Cell 0) := by decide

/-- The addresses of LoadIdxX, LoadIdxY and LoadSpX reach each clause (LD17, LD15, LD16, LD21). -/
theorem test_witness_indexed_loads :
    wrap (BitVec.toInt (990 : Word) + BitVec.toInt (10 : Word)) = 1000 ∧
    wrap (BitVec.toInt (1000 : Word) + BitVec.toInt (-1 : Word)) = 999 ∧
    wrap (BitVec.toInt (2147483647 : Word) + BitVec.toInt (1 : Word)) = -2147483648 ∧
    wrap (BitVec.toInt (999 : Word) + BitVec.toInt (0 : Word) + 1) = 1000 ∧
    wrap (BitVec.toInt (998 : Word) + BitVec.toInt (0 : Word) + 1) = 999 := by decide

/-- LoadIndChecksBothAddressesInOrder, each clause. -/
theorem test_witness_loadInd :
    Violation (start []) 1000 ∧ (¬ Violation (start []) (-1) ∧ ¬ Cell (-1)) ∧
    (¬ Violation (start [(500, 1000)]) 500 ∧ Cell 500 ∧ Violation (start [(500, 1000)]) (Mem.read [(500, 1000)] 500)) ∧
    (¬ Violation (start [(500, -1)]) (Mem.read [(500, -1)] 500) ∧ ¬ Cell (Mem.read [(500, -1)] 500)) ∧
    (¬ Violation (start [(500, 999)]) (Mem.read [(500, 999)] 500) ∧ Cell (Mem.read [(500, 999)] 500)) := by decide

/-- StoreWritesItsCellUnchecked, with the option off. -/
theorem test_witness_store :
    Ready (start []) ∧ (start []).params.checkStores = false ∧ Cell 0 ∧ Cell 1999 ∧ ¬ Cell 2000 ∧
    ¬ Cell (-1) := by decide

/-- CheckStoresOptionRaisesMemoryViolation. -/
theorem test_witness_check_stores :
    Ready (cstart []) ∧ (cstart []).params.checkStores = true ∧ Violation (cstart []) 1000 ∧
    (¬ Violation (cstart []) 999 ∧ Cell 999) ∧ (¬ Violation (cstart []) (-1) ∧ ¬ Cell (-1)) ∧
    Violation { cstart [] with sp := 1000 } ({ cstart [] with sp := 1000 } : State).sp ∧
    ¬ Violation { cstart [] with sp := -1 } ({ cstart [] with sp := -1 } : State).sp := by decide

/-- StoreThenLoadReturnsTheValue and StoreThenFetchSeesTheStoredWord. -/
theorem test_witness_store_then :
    Ready (start []) ∧ (start []).mem.Wf ∧ Cell 999 ∧ ¬ Violation (start []) 999 ∧ (start []).instrCount < cntMax ∧
    (start []).params.checkStores = false := by decide

/-- PutAppendsOneEventOrRaisesIllegalPort: ports 1, 2, and 3 or 0. -/
theorem test_witness_put :
    (start []).cpu = .idle ∧ (3 : Word) ≠ 1 ∧ (3 : Word) ≠ 2 ∧ (0 : Word) ≠ 1 ∧ (0 : Word) ≠ 2 := by decide

/-- CopiesFollowTheDefaultDirection and CopiesFollowTheReversedDirection. -/
theorem test_witness_copies :
    (start []).params.copyDirX = .evenWritesRegister ∧ (start []).params.copyDirY = .evenWritesRegister ∧
    (start []).params.copyDirSp = .evenWritesRegister ∧
    ({ defaultParams with copyDirX := .evenWritesAc, copyDirY := .evenWritesAc, copyDirSp := .evenWritesAc } :
      Params).copyDirSp = .evenWritesAc := by decide

/-- D3, the pair 14/15 turned round, by hand. -/
theorem test_witness_copies_reversed :
    see (step { start [(0, 14)] with ac := 9, x := 4, params := { defaultParams with copyDirX := .evenWritesAc } }) (fun t => (t.ac, t.x)) =
      some (4, 4) := by decide

/-- JumpIfEqualBranchesOnZero and JumpIfNotEqualBranchesOnNonzero. -/
theorem test_witness_branches : (start []).ac = 0 ∧ ({ start [] with ac := -1 } : State).ac ≠ 0 := by decide

/-- PushWritesAcThenDecrementsSp, CallPushesTheReturnAddressAndJumps, PushThenPopIsIdentity, CallThenRetReturns. -/
theorem test_witness_push :
    Ready { start [] with sp := 0 } ∧ Cell 0 ∧ Cell 1999 ∧ ¬ Cell 2000 ∧ ¬ Cell (-1) ∧
    (start []).params.checkStores = false ∧ ¬ Violation { cstart [] with sp := 999 } 999 ∧
    (start []).mem.Wf := by decide

/-- PopIncrementsSpThenLoadsAc and RetPopsPc. -/
theorem test_witness_pop :
    Ready (start []) ∧ Cell (wrap (BitVec.toInt (1998 : Word) + 1)) ∧ Cell (wrap (BitVec.toInt (-1 : Word) + 1)) ∧
    ¬ Cell (wrap (BitVec.toInt (1999 : Word) + 1)) ∧ ¬ Cell (wrap (BitVec.toInt (-2 : Word) + 1)) := by decide

/-- IntEntersTheKernelFromUserMode. -/
theorem test_witness_int :
    Ready (start []) ∧ (start []).mode = .user ∧ Ready (kstart []) ∧ (kstart []).mode = .kernel := by decide

/-- IRetPopsPcThenSpInUserMode: SP 1999, 1998 and 1997. -/
theorem test_witness_iret :
    Ready (kstart []) ∧ ¬ Cell (wrap (BitVec.toInt (1999 : Word) + 1)) ∧
    (Cell (wrap (BitVec.toInt (1998 : Word) + 1)) ∧ ¬ Cell (wrap (BitVec.toInt (1998 : Word) + 2))) ∧
    (Cell (wrap (BitVec.toInt (1997 : Word) + 1)) ∧ Cell (wrap (BitVec.toInt (1997 : Word) + 2))) := by decide

/-! ## Witnesses: frames and the whole machine -/

/-- ExecutionWritesOnlyItsTableRow and ExecutionWritesOnlyItsStoredCells. -/
theorem test_witness_frame :
    (∃ t, exec (.jump 5) (start []) = .next t) ∧ Piece.ac ∉ written defaultParams (.jump 5) ∧
    Piece.mem ∉ written defaultParams .pop ∧ (∃ t, exec .pop (start []) = .next t) ∧ 999 ∉ storedCells .int (start []) ∧
    (∃ t, exec .int (start []) = .next t) := ⟨⟨_, rfl⟩, by decide, by decide, ⟨_, rfl⟩, by decide, ⟨_, rfl⟩⟩

/-- StoringInstructionsLeaveTheirWordInMemory, each clause. -/
theorem test_witness_stored_word :
    Ready (start []) ∧ (start []).mem.Wf ∧
    (∃ t, exec (.store 1999) (start []) = .next t ∧ decide (t.status = .running) = true) ∧
    (∃ t, exec .push (start []) = .next t ∧ decide (t.status = .running) = true) ∧
    (∃ t, exec (.call 5) (start []) = .next t ∧ decide (t.status = .running) = true) ∧
    (∃ t, exec .int (start []) = .next t ∧
    decide (t.status = .running) = true) := ⟨by decide, by decide, next_of_goes (by decide), next_of_goes (by decide),
    next_of_goes (by decide), next_of_goes (by decide)⟩

/-- ServingStoreAnswersReadsAndStoresWrites. -/
theorem test_witness_serving : (start []).store = .serving ∧ Cell 0 ∧ Cell 1999 := by decide

/-- InvariantHoldsAfterReset. -/
theorem test_witness_boot : defaultLaunch.image.Wf := by decide

/-- EveryStepKeepsTheInvariant, MemoryIsTheReplayOfTheTrace, RunningMachineIsNeverStuck, and user to kernel mode by opcode 29. -/
theorem test_witness_invariant :
    Inv (start [(0, 29)]) ∧ (start [(0, 29)]).mem = replay [(0, 29)] (start [(0, 29)]).trace ∧
    (start [(0, 29)]).status = .running ∧ (start [(0, 29)]).params.ok = true ∧
    (∃ t, step (start [(0, 29)]) = .next t ∧
    decide (t.mode = .kernel) = true) := ⟨inv_start _ (by decide), rfl, rfl, rfl, next_of_goes (by decide)⟩

/-- ModeChangesOnlyByTrapEntryAndIRet: by the timer, and back by opcode 30 (SY4). -/
theorem test_witness_mode :
    (∃ t, step { qstart 3 [] with instrCount := 3 } = .next t ∧ decide (t.mode = .kernel) = true) ∧
    (∃ t, step { kstart [(1500, 30), (1998, 5), (1999, 999)] with pc := 1500, sp := 1997 } = .next t ∧
      decide (t.mode = .user) = true) := ⟨next_of_goes (by decide), next_of_goes (by decide)⟩

/-- CountRisesExactlyWithEachFetch (both clauses), OutputGrowsOnlyByPut, StepOnlyAppendsInRangeRequests. -/
theorem test_witness_count :
    (∃ t, step (start [(0, 9), (1, 1)]) = .next t ∧ decide (t.out = [.int 0]) = true) ∧
    (∃ t, step { start [] with pc := 2000 } = .next t ∧
    decide (t.instrCount = 0) = true) := ⟨next_of_goes (by decide), next_of_goes (by decide)⟩

/-- MemoryViolationOnlyFromCheckedUserLoads (LD5). -/
theorem test_witness_violation :
    (start [(0, 2), (1, 1000)]).params.checkStores = false ∧
    (∃ t, step (start [(0, 2), (1, 1000)]) = .next t ∧
      decide (t.status = .faulted (.memoryViolation 1000 .user 1)) = true) := ⟨rfl, next_of_goes (by decide)⟩

end Sys2Proof.Tests
end

section
/-! O31 (10_state.md R31): the output stream. The channel operations never touch it, so of all instructions only Put
can append to it, and Put is executed only when the opcode word in IR is 9. -/

namespace Sys2Proof.Machine

open Sys2Proof

/-! ## What follows a shared operation that answers a next state -/

theorem fatal_next {r : FaultRecord} {s t : State} (h : fatal r s = .next t) : t = faultedState r s := by
  rcases fatal_cases r s with ⟨-, e⟩ | e <;> rw [e] at h <;> cases h
  rfl

/-- A store either hands the rest of the cycle a state that differs in memory, request trace and store FSM, or ends
the cycle with a fault that leaves the state as it was (20_memory.md R45, R59). -/
theorem storeWord_finish_next {a v : Word} {s t : State} {k : Unit → State → Out}
    (h : (storeWord a v s).finish k = .next t) :
    (∃ m st, k () { s with mem := m, trace := s.trace ++ [.write a v], store := st } = .next t) ∨
      ∃ r, t = faultedState r s := by
  rcases storeWord_cases a v s with ⟨-, -, m, st, e, -⟩ | ⟨-, -, -, e⟩ | ⟨-, -, e⟩ | ⟨f, e⟩ <;> rw [e] at h
  · exact .inl ⟨m, st, h⟩
  · cases h; exact .inr ⟨_, rfl⟩
  · cases h; exact .inr ⟨_, rfl⟩
  · cases h

/-- A push either hands on the state after the write with SP decremented, or faults with the state as it was
(20_memory.md R46). -/
theorem push_finish_next {v : Word} {s t : State} {k : Unit → State → Out}
    (h : (push v s).finish k = .next t) :
    (∃ m st, k () { s with mem := m, trace := s.trace ++ [.write s.sp v], store := st,
                           sp := wrap (s.sp.toInt - 1) } = .next t) ∨
      ∃ r, t = faultedState r s := by
  rcases push_cases v s with ⟨-, -, m, st, e, -⟩ | ⟨-, -, -, e⟩ | ⟨-, -, e⟩ | ⟨f, e⟩ <;> rw [e] at h
  · exact .inl ⟨m, st, h⟩
  · cases h; exact .inr ⟨_, rfl⟩
  · cases h; exact .inr ⟨_, rfl⟩
  · cases h

/-- A pop either hands on a word and the state after the read, or faults; SP is incremented both ways
(20_memory.md R47). -/
theorem pop_finish_next {s t : State} {k : Word → State → Out} (h : (pop s).finish k = .next t) :
    (∃ v, k v { s with sp := wrap (s.sp.toInt + 1), trace := s.trace ++ [.read (wrap (s.sp.toInt + 1))] } = .next t) ∨
      ∃ r, t = faultedState r { s with sp := wrap (s.sp.toInt + 1) } := by
  rcases pop_cases s with ⟨-, -, e⟩ | ⟨-, -, e⟩ | ⟨f, e⟩ <;> rw [e] at h
  · exact .inl ⟨_, h⟩
  · cases h; exact .inr ⟨_, rfl⟩
  · cases h

/-! ## The output after each operation -/

theorem loadChecked_out {a : Word} {s t : State} (h : loadChecked a s = .next t) : t.out = s.out := by
  rcases loadChecked_next h with ⟨-, -, -, rfl⟩ | ⟨-, -, rfl⟩ | ⟨-, -, -, rfl⟩ <;> rfl

theorem execLoadInd_out {a : Word} {s t : State} (h : execLoadInd a s = .next t) : t.out = s.out := by
  rcases execLoadInd_next h with ⟨-, -, -, rfl⟩ | ⟨-, -, rfl⟩ | ⟨-, -, rfl⟩ | ⟨_, -, -, -, rfl⟩ | ⟨_, -, -, -, rfl⟩ <;>
    rfl

theorem execStore_out {a : Word} {s t : State} (h : execStore a s = .next t) : t.out = s.out := by
  rcases storeWord_finish_next h with ⟨m, st, e⟩ | ⟨r, rfl⟩
  · cases e; rfl
  · rfl

theorem push_finish_out {v : Word} {s t : State} {k : Unit → State → Out}
    (hk : ∀ u t, k () u = .next t → t.out = u.out) (h : (push v s).finish k = .next t) : t.out = s.out := by
  rcases push_finish_next h with ⟨m, st, e⟩ | ⟨r, rfl⟩
  · exact (hk _ _ e :)
  · rfl

theorem pop_finish_out {s t : State} {k : Word → State → Out}
    (hk : ∀ v u t, k v u = .next t → t.out = u.out) (h : (pop s).finish k = .next t) : t.out = s.out := by
  rcases pop_finish_next h with ⟨v, e⟩ | ⟨r, rfl⟩
  · exact (hk _ _ _ e :)
  · rfl

theorem execPush_out {s t : State} (h : execPush s = .next t) : t.out = s.out :=
  push_finish_out (fun _ _ e => by cases e; rfl) h

theorem execCall_out {a : Word} {s t : State} (h : execCall a s = .next t) : t.out = s.out :=
  push_finish_out (fun _ _ e => by cases e; rfl) h

theorem execPop_out {s t : State} (h : execPop s = .next t) : t.out = s.out :=
  pop_finish_out (fun _ _ _ e => by cases e; rfl) h

theorem execRet_out {s t : State} (h : execRet s = .next t) : t.out = s.out :=
  pop_finish_out (fun _ _ _ e => by cases e; rfl) h

theorem trapEntry_out {vector savedPc : Word} {s t : State} (h : trapEntry vector savedPc s = .next t) :
    t.out = s.out := by
  rcases trapEntry_cases vector savedPc s with ⟨-, m, st, e, -⟩ | e <;> rw [e] at h <;> cases h
  rfl

theorem trapReturn_out {s t : State} (h : trapReturn s = .next t) : t.out = s.out :=
  pop_finish_out (s := { s with mode := .user })
    (fun newPc u _ h₂ => pop_finish_out (s := { u with pc := newPc }) (fun _ _ _ e => by cases e; rfl) h₂) h

theorem execInt_out {s t : State} (h : execInt s = .next t) : t.out = s.out := by
  unfold execInt at h
  split at h
  · rw [fatal_next h, faultedState_out]
  · exact trapEntry_out h

theorem execEnd_out {s t : State} (h : execEnd s = .next t) : t.out = s.out := by
  rcases execEnd_cases s with ⟨-, e⟩ | e <;> rw [e] at h <;> cases h
  rfl

theorem exec_out_of_ne_put {i : Instr} {s t : State} (hi : ∀ p, i ≠ .put p) (h : exec i s = .next t) :
    t.out = s.out := by
  cases i with
  | put p => exact absurd rfl (hi p)
  | loadAddr | loadIdxX | loadIdxY | loadSpX => exact loadChecked_out h
  | loadInd => exact execLoadInd_out h
  | store => exact execStore_out h
  | push => exact execPush_out h
  | call => exact execCall_out h
  | pop => exact execPop_out h
  | ret => exact execRet_out h
  | int => exact execInt_out h
  | iret => exact trapReturn_out h
  | endRun => exact execEnd_out h
  | loadValue | get | addX | addY | subX | subY | incX | decX | jump => cases h; rfl
  | jumpIfEqual | jumpIfNotEqual =>
    simp only [exec, execJumpIfEqual, execJumpIfNotEqual] at h
    split at h <;> cases h <;> rfl
  | copyToX | copyFromX | copyToY | copyFromY | copyToSp | copyFromSp =>
    simp only [exec, execCopyToX, execCopyFromX, execCopyToY, execCopyFromY, execCopyToSp, execCopyFromSp] at h
    split at h <;> cases h <;> rfl

/-! ## The output after a step -/

/-- The output relation of 10_state.md R31 between the states before and after a step. -/
def OutputKeptOrPut (s t : State) : Prop :=
  t.out = s.out ∨ (t.ir = 9 ∧ (t.out = s.out ++ [.int s.ac] ∨ t.out = s.out ++ [.char s.ac]))

/-- Ports 1 and 2 append an event of AC; any other port is a fault, which appends nothing (41_random_output.md
R121). -/
theorem execPut_out {p : Word} {s t : State} (hir : s.ir = 9) (h : execPut p s = .next t) : OutputKeptOrPut s t := by
  unfold execPut at h
  split at h
  · cases h; exact .inr ⟨hir, .inl rfl⟩
  · split at h
    · cases h; exact .inr ⟨hir, .inr rfl⟩
    · exact .inl (by rw [fatal_next h, faultedState_out])

/-- An instruction whose opcode word is in IR: only Put appends, and its opcode word is 9. -/
theorem exec_out {i : Instr} {s t : State} (h : exec i s = .next t) (hir : (opcodeWord i).toNat = s.ir.toNat) :
    OutputKeptOrPut s t := by
  by_cases hi : ∃ p, i = .put p
  · obtain ⟨p, rfl⟩ := hi
    exact execPut_out (BitVec.eq_of_toNat_eq hir).symm h
  · exact .inl (exec_out_of_ne_put (fun p e => hi ⟨p, e⟩) h)

/-- A timer entry, a faulting fetch and an illegal opcode leave the output alone; what is left is the execution of
the instruction whose opcode word the fetch put in IR. -/
theorem step_out {s t : State} (h : step s = .next t) : OutputKeptOrPut s t := by
  obtain ⟨-, -, ⟨-, -, -, -, rfl⟩ | ⟨s₁, hadm, hentry⟩ | ⟨s₁, hadm, hfetch⟩⟩ := step_next h
  · exact .inl rfl
  · obtain ⟨-, -, -, -, -, -, -, -, -, -, -, hout, -⟩ := admissionCheck_enter hadm
    exact .inl ((trapEntry_out hentry).trans hout)
  · obtain ⟨-, -, -, hac, -, -, -, -, -, hout, -⟩ := admissionCheck_none hadm
    unfold OutputKeptOrPut
    rw [← hout, ← hac]
    obtain ⟨-, -, -, rfl⟩ | ⟨-, -, -, -, rfl⟩ | ⟨s₂, -, -, -, -, rfl, hexec⟩ := hfetch
    · exact .inl rfl
    · exact .inl rfl
    · obtain ⟨-, rfl⟩ | ⟨i, hdec, hrun⟩ | ⟨f, -, -, rfl⟩ | ⟨f, hdec, -, hrun⟩ := hexec
      · exact .inl rfl
      · exact (exec_out hrun (decodeOpcode_one hdec).2 :)
      · exact .inl rfl
      · exact (exec_out hrun (decodeOpcode_two hdec _).2 :)

/-- Settles O31: reset by the definition of `State.boot`, the step clause by `step_out`. -/
theorem outputGrowsOnlyByPut : Obligations.OutputGrowsOnlyByPut := by
  unfold Obligations.OutputGrowsOnlyByPut
  exact ⟨fun _ => rfl, fun _ _ => step_out⟩

end Sys2Proof.Machine
end

section
/-! O50 (20_memory.md R56 to R58): the Memory Store's side of the protocol, one lemma per transition out of
Serving and for the second message of a write. -/

namespace Sys2Proof.Machine

open Sys2Proof

/-! ## The store's transitions -/

theorem storeRecv_readReq_serving {s : State} {a : Word} (hs : s.store = .serving) (ha : Cell a) :
    storeRecv (.readReq a) s = (s, some (s.mem.read a.toNat)) := by
  simp [storeRecv, hs, (inRange_iff_cell a).mpr ha]

theorem storeRecv_writeAddr_serving {s : State} {a : Word} (hs : s.store = .serving) (ha : Cell a) :
    storeRecv (.writeAddr a) s = ({ s with store := .awaitData a }, none) := by
  simp [storeRecv, hs, (inRange_iff_cell a).mpr ha]

theorem storeRecv_writeData_awaitData {s : State} {a : Word} (v : Word) (hs : s.store = .awaitData a) :
    storeRecv (.writeData v) s = ({ s with mem := s.mem.write a.toNat v, store := .serving }, none) := by
  simp [storeRecv, hs]

theorem storeRecv_shutdown_serving {s : State} (hs : s.store = .serving) :
    storeRecv .shutdown s = ({ s with store := .terminated }, none) := by
  simp [storeRecv, hs]

/-- The two messages of a write, one after the other: the store serves again and only memory has changed
(20_memory.md R57). -/
theorem storeRecv_writeData_writeAddr {s : State} {a : Word} (v : Word) (hs : s.store = .serving) (ha : Cell a) :
    storeRecv (.writeData v) (storeRecv (.writeAddr a) s).1 = ({ s with mem := s.mem.write a.toNat v }, none) := by
  rw [storeRecv_writeAddr_serving hs ha, storeRecv_writeData_awaitData v rfl, ← hs]

/-- Settles O50: the store's four transitions, and the read-after-write laws of the cells. -/
theorem servingStoreAnswersReadsAndStoresWrites : Obligations.ServingStoreAnswersReadsAndStoresWrites := by
  unfold Obligations.ServingStoreAnswersReadsAndStoresWrites
  intro s a v hs
  refine ⟨storeRecv_readReq_serving hs, fun ha => ?write, ?shutdown⟩
  case write =>
    have hwrite := storeRecv_writeData_writeAddr v hs ha
    have haddr := storeRecv_writeAddr_serving hs ha
    exact ⟨congrArg Prod.snd hwrite, congrArg Prod.snd haddr, congrArg Prod.fst hwrite,
      Mem.read_write_same s.mem a.toNat v, fun _ => Mem.read_write_other s.mem v⟩
  case shutdown =>
    rw [storeRecv_shutdown_serving hs]
    exact ⟨rfl, rfl⟩

end Sys2Proof.Machine
end

section
/-! The cycle that fetches one instruction (30_encoding.md R72 to R74): how a step hands an opcode word, and the operand
word behind it, to `exec`. Every `RunsAlone` and `RunsWithOperand` follows from the opcode table. -/

namespace Sys2Proof.Machine

open Sys2Proof Sys2Proof.Config

/-- When the admission check answers NONE, the rest of the step is the fetch and the execution. -/
theorem step_eq_fetchInstr_exec {s t : State} (hs : Runs s) (hadm : admissionCheck s = .ok false t) :
    step s = (fetchInstr t).finish exec := by
  obtain ⟨hrun, hok, -⟩ := hs
  simp only [step, hrun, hok, cycle, hadm, if_true, Act.finish_ok]

/-- A fetch from a cell below the largest count goes on to the decoding of the word fetched (30_encoding.md R73). -/
theorem fetchInstr_eq_decodeIr {t : State} {w : Word} (hr : Ready t) (hpc : Cell t.pc) (hn : t.instrCount < cntMax)
    (hw : t.mem.read t.pc.toNat = w) :
    fetchInstr t = decodeIr { t with ir := w, instrCount := t.instrCount + 1, trace := t.trace ++ [.read t.pc] } := by
  rw [fetchInstr, fetchOpcode_ready hr hpc hn, Act.bind_ok, hw]

theorem decodeIr_of_one {s : State} {i : Instr} (h : decodeOpcode s.ir.toNat = some (.one i)) :
    decodeIr s = .ok i s := by
  simp only [decodeIr, h]

theorem decodeIr_of_two {s : State} {f : Word → Instr} (h : decodeOpcode s.ir.toNat = some (.two f)) :
    decodeIr s = (fetchOperand s).bind fun v t => .ok (f v) t := by
  simp only [decodeIr, h]

theorem fetchOperand_of_cell {s : State} (hr : Ready s) (ha : Cell (wrap (s.pc.toInt + 1))) :
    fetchOperand s = .ok (s.mem.read (wrap (s.pc.toInt + 1)).toNat)
      { s with pc := wrap (s.pc.toInt + 1), trace := s.trace ++ [.read (wrap (s.pc.toInt + 1))] } :=
  memRead_ready (s := { s with pc := wrap (s.pc.toInt + 1) }) hr ((inRange_iff_cell _).mpr ha)

/-- An operand read that faults finds PC at the operand word (30_encoding.md R74, 60_exceptions.md R239). -/
theorem fetchOperand_of_not_cell {s : State} (hc : s.cpu = .idle) (ha : ¬ Cell (wrap (s.pc.toInt + 1))) :
    fetchOperand s = .stop (.next (faultedState
      (.outOfRange (wrap (s.pc.toInt + 1)) s.mode (wrap (s.pc.toInt + 1))) { s with pc := wrap (s.pc.toInt + 1) })) :=
  memRead_outOfRange (s := { s with pc := wrap (s.pc.toInt + 1) }) hc ((not_inRange_iff _).mpr ha)

/-- A word that the opcode table gives format `F1` is the whole of its instruction. -/
theorem runsAlone_of_decodeOpcode {w : Word} {i : Instr} (h : decodeOpcode w.toNat = some (.one i)) :
    RunsAlone w i := by
  intro s t hs hadm hpc hn hw
  rw [step_eq_fetchInstr_exec hs hadm, fetchInstr_eq_decodeIr (ready_of_none hadm hs.2.2) hpc hn hw, decodeIr_of_one h,
    Act.finish_ok]

/-- A word that the opcode table gives format `F2` takes the word behind it as the operand. -/
theorem runsWithOperand_of_decodeOpcode {w : Word} {f : Word → Instr} (h : decodeOpcode w.toNat = some (.two f)) :
    RunsWithOperand w f := by
  intro s t hs hadm hpc hn hw
  have hr : Ready t := ready_of_none hadm hs.2.2
  rw [step_eq_fetchInstr_exec hs hadm, fetchInstr_eq_decodeIr hr hpc hn hw, decodeIr_of_two h]
  refine ⟨fun ha => ?operandRead, fun ha => ?operandFault⟩
  case operandRead =>
    rw [fetchOperand_of_cell (by exact hr) (by exact ha), Act.bind_ok, Act.finish_ok, List.append_assoc,
      List.singleton_append]
  case operandFault =>
    rw [fetchOperand_of_not_cell (by exact hr.1) (by exact ha), Act.bind_stop, Act.finish_stop]

end Sys2Proof.Machine
end

section
/-! O19 to O25 (40_load_store.md R100 to R106): loads and stores. The checked read and the checked load are stated once
in the spec's own conditions; opcodes 2 and 4 to 6 are that load at their effective addresses, and opcode 3 is a
checked read followed by that load. -/

namespace Sys2Proof.Machine

open Sys2Proof

/-! ## The checked read (00_scope.md R10, 20_memory.md R44) -/

theorem checkedRead_of_violation {a : Word} {s : State} (hr : Ready s) (hv : Violation s a) :
    checkedRead a s = .stop (.next (faultedState (.memoryViolation a .user s.pc) s)) := by
  rw [checkedRead_violation hr.1 ((violates_iff s a).mpr hv), hv.1]

theorem checkedRead_of_not_cell {a : Word} {s : State} (hr : Ready s) (hv : ¬ Violation s a) (ha : ¬ Cell a) :
    checkedRead a s = .stop (.next (faultedState (.outOfRange a s.mode s.pc) s)) :=
  checkedRead_outOfRange hr.1 ((not_violates_iff s a).mpr hv) ((not_inRange_iff a).mpr ha)

theorem checkedRead_of_cell {a : Word} {s : State} (hr : Ready s) (hv : ¬ Violation s a) (ha : Cell a) :
    checkedRead a s = .ok (s.mem.read a.toNat) { s with trace := s.trace ++ [.read a] } :=
  checkedRead_ready hr ((not_violates_iff s a).mpr hv) ((inRange_iff_cell a).mpr ha)

/-! ## The checked load -/

theorem loadChecked_of_violation {a : Word} {s : State} (hr : Ready s) (hv : Violation s a) :
    loadChecked a s = .next (faultedState (.memoryViolation a .user s.pc) s) := by
  rw [loadChecked, checkedRead_of_violation hr hv, Act.finish_stop]

theorem loadChecked_of_not_cell {a : Word} {s : State} (hr : Ready s) (hv : ¬ Violation s a) (ha : ¬ Cell a) :
    loadChecked a s = .next (faultedState (.outOfRange a s.mode s.pc) s) := by
  rw [loadChecked, checkedRead_of_not_cell hr hv ha, Act.finish_stop]

theorem loadChecked_of_cell {a : Word} {s : State} (hr : Ready s) (hv : ¬ Violation s a) (ha : Cell a) :
    loadChecked a s = .next
      { s with ac := s.mem.read a.toNat, pc := wrap (s.pc.toInt + 1), trace := s.trace ++ [.read a] } := by
  rw [loadChecked, checkedRead_of_cell hr hv ha, Act.finish_ok, advance]

/-- An instruction whose meaning is a checked load of `a` loads from `a`. -/
theorem loadsFrom_of_exec_eq_loadChecked {i : Instr} {s : State} {a : Word} (hr : Ready s)
    (h : exec i s = loadChecked a s) : LoadsFrom i s a := by
  unfold LoadsFrom
  rw [h]
  exact ⟨loadChecked_of_violation hr, loadChecked_of_not_cell hr, loadChecked_of_cell hr⟩

/-! ## LoadInd: the second address -/

theorem exec_loadInd (a : Word) (s : State) : exec (.loadInd a) s = execLoadInd a s := rfl

/-- Once the first read has answered, LoadInd is a checked load of the word read (40_load_store.md R102). -/
theorem execLoadInd_eq_loadChecked {a : Word} {s : State} (hr : Ready s) (hv : ¬ Violation s a) (ha : Cell a) :
    execLoadInd a s = loadChecked (s.mem.read a.toNat) { s with trace := s.trace ++ [.read a] } := by
  rw [execLoadInd, checkedRead_of_cell hr hv ha, Act.finish_ok]

/-! ## Store with CHECK_STORES off -/

theorem execStore_of_cell {a : Word} {s : State} (hr : Ready s) (hopt : s.params.checkStores = false) (ha : Cell a) :
    execStore a s = .next
      { s with
        mem := s.mem.write a.toNat s.ac
        pc := wrap (s.pc.toInt + 1)
        trace := s.trace ++ [.write a s.ac] } := by
  rw [execStore, storeWord_eq_memWrite (.inl hopt), memWrite_ready hr ((inRange_iff_cell a).mpr ha), Act.finish_ok,
    advance]

theorem execStore_of_not_cell {a : Word} {s : State} (hr : Ready s) (hopt : s.params.checkStores = false)
    (ha : ¬ Cell a) : execStore a s = .next (faultedState (.outOfRange a s.mode s.pc) s) := by
  rw [execStore, storeWord_eq_memWrite (.inl hopt), memWrite_outOfRange hr.1 ((not_inRange_iff a).mpr ha),
    Act.finish_stop]

/-! ## The obligations -/

/-- Settles O19: the meaning of LoadValue as it stands, and the row of opcode 1. -/
theorem loadValueLoadsItsOperand : Obligations.LoadValueLoadsItsOperand := by
  unfold Obligations.LoadValueLoadsItsOperand
  exact ⟨fun _ _ => rfl, runsWithOperand_of_decodeOpcode rfl⟩

/-- Settles O20: a checked load of the operand. -/
theorem loadAddrLoadsTheCheckedCell : Obligations.LoadAddrLoadsTheCheckedCell := by
  unfold Obligations.LoadAddrLoadsTheCheckedCell
  exact ⟨fun _ _ hr => loadsFrom_of_exec_eq_loadChecked hr rfl, runsWithOperand_of_decodeOpcode rfl⟩

/-- Settles O21: the first address by the checked read, the second by the checked load after it. -/
theorem loadIndChecksBothAddressesInOrder : Obligations.LoadIndChecksBothAddressesInOrder := by
  unfold Obligations.LoadIndChecksBothAddressesInOrder
  refine ⟨fun a s hr => ?_, runsWithOperand_of_decodeOpcode rfl⟩
  rw [exec_loadInd]
  refine ⟨fun hv => ?violation, fun hv ha => ?outOfRange, fun hv ha hv₂ => ?secondViolation,
    fun hv ha hv₂ ha₂ => ?secondOutOfRange, fun hv ha hv₂ ha₂ => ?loaded⟩
  case violation => rw [execLoadInd, checkedRead_of_violation hr hv, Act.finish_stop]
  case outOfRange => rw [execLoadInd, checkedRead_of_not_cell hr hv ha, Act.finish_stop]
  case secondViolation => exact (execLoadInd_eq_loadChecked hr hv ha).trans (loadChecked_of_violation hr hv₂)
  case secondOutOfRange => exact (execLoadInd_eq_loadChecked hr hv ha).trans (loadChecked_of_not_cell hr hv₂ ha₂)
  case loaded =>
    rw [execLoadInd_eq_loadChecked hr hv ha, loadChecked_of_cell (by exact hr) (by exact hv₂) ha₂, List.append_assoc,
      List.singleton_append]

/-- Settles O22: a checked load at `eaIndexedX`. -/
theorem loadIdxXLoadsAtBasePlusX : Obligations.LoadIdxXLoadsAtBasePlusX := by
  unfold Obligations.LoadIdxXLoadsAtBasePlusX
  exact ⟨fun _ _ hr => loadsFrom_of_exec_eq_loadChecked hr rfl, runsWithOperand_of_decodeOpcode rfl⟩

/-- Settles O23: a checked load at `eaIndexedY`. -/
theorem loadIdxYLoadsAtBasePlusY : Obligations.LoadIdxYLoadsAtBasePlusY := by
  unfold Obligations.LoadIdxYLoadsAtBasePlusY
  exact ⟨fun _ _ hr => loadsFrom_of_exec_eq_loadChecked hr rfl, runsWithOperand_of_decodeOpcode rfl⟩

/-- Settles O24: a checked load at `eaStackX`; opcode 6 has no operand word. -/
theorem loadSpXLoadsAtSpPlusXPlusOne : Obligations.LoadSpXLoadsAtSpPlusXPlusOne := by
  unfold Obligations.LoadSpXLoadsAtSpPlusXPlusOne
  exact ⟨fun _ hr => loadsFrom_of_exec_eq_loadChecked hr rfl, runsAlone_of_decodeOpcode rfl⟩

/-- Settles O25: a store is a plain write while CHECK_STORES is off, in both modes. -/
theorem storeWritesItsCellUnchecked : Obligations.StoreWritesItsCellUnchecked := by
  unfold Obligations.StoreWritesItsCellUnchecked
  exact ⟨fun _ _ hr hopt => ⟨execStore_of_cell hr hopt, execStore_of_not_cell hr hopt⟩,
    runsWithOperand_of_decodeOpcode rfl⟩

end Sys2Proof.Machine
end

section
/-! O32 (42_alu.md R131 to R136): the six arithmetic instructions. The four on AC are the shared add and subtract as
they stand; IncX and DecX are the same operations with the word 1. -/

namespace Sys2Proof.Machine

theorem aluAdd_one (a : Word) : aluAdd a 1 = wrap (a.toInt + 1) := by
  have h : (1 : Word).toInt = 1 := by decide
  rw [aluAdd, h]

theorem aluSub_one (a : Word) : aluSub a 1 = wrap (a.toInt - 1) := by
  have h : (1 : Word).toInt = 1 := by decide
  rw [aluSub, h]

theorem execIncX_eq (s : State) :
    execIncX s = .next { s with x := wrap (s.x.toInt + 1), pc := wrap (s.pc.toInt + 1) } := by
  rw [execIncX, aluAdd_one, advance]

theorem execDecX_eq (s : State) :
    execDecX s = .next { s with x := wrap (s.x.toInt - 1), pc := wrap (s.pc.toInt + 1) } := by
  rw [execDecX, aluSub_one, advance]

/-- Settles O32: the six meanings, and the rows of opcodes 10 to 13, 25 and 26. -/
theorem arithmeticWritesTheWrappedResult : Obligations.ArithmeticWritesTheWrappedResult := by
  unfold Obligations.ArithmeticWritesTheWrappedResult
  refine ⟨fun s => ⟨?addX, ?addY, ?subX, ?subY, execIncX_eq s, execDecX_eq s⟩, ?rows⟩
  case addX | addY | subX | subY => rfl
  case rows =>
    and_intros
    all_goals exact runsAlone_of_decodeOpcode rfl

end Sys2Proof.Machine
end

section
/-! O35 to O39 (44_control_transfer.md R161 to R165): control transfer. The branch test and the two stack primitives are
stated once in the spec's own conditions; each meaning is then an equation per case. -/

namespace Sys2Proof.Machine

open Sys2Proof

/-! ## The branch test -/

theorem acIsZero_iff (s : State) : acIsZero s = true ↔ s.ac = 0 := by
  have h : (0 : Word).toInt = 0 := by decide
  rw [acIsZero, decide_eq_true_iff, ← BitVec.toInt_inj, h]

theorem execJumpIfEqual_of_eq_zero (t : Word) {s : State} (h : s.ac = 0) :
    execJumpIfEqual t s = .next { s with pc := t } := by
  rw [execJumpIfEqual, if_pos ((acIsZero_iff s).mpr h)]

theorem execJumpIfEqual_of_ne_zero (t : Word) {s : State} (h : s.ac ≠ 0) :
    execJumpIfEqual t s = .next { s with pc := wrap (s.pc.toInt + 1) } := by
  rw [execJumpIfEqual, if_neg (mt (acIsZero_iff s).mp h), advance]

theorem execJumpIfNotEqual_of_ne_zero (t : Word) {s : State} (h : s.ac ≠ 0) :
    execJumpIfNotEqual t s = .next { s with pc := t } := by
  rw [execJumpIfNotEqual, if_neg (mt (acIsZero_iff s).mp h)]

theorem execJumpIfNotEqual_of_eq_zero (t : Word) {s : State} (h : s.ac = 0) :
    execJumpIfNotEqual t s = .next { s with pc := wrap (s.pc.toInt + 1) } := by
  rw [execJumpIfNotEqual, if_pos ((acIsZero_iff s).mpr h), advance]

/-- A draw is one of 1..100 (41_random_output.md R120), so no draw is the word 0. -/
theorem drawValue_ne_zero (n : Nat) : drawValue n ≠ 0 := by
  have hlt := (Config.freeDraw n).isLt
  have h : (0 : Word).toNat = 0 := by decide
  rw [drawValue, ne_eq, ← BitVec.toNat_inj, BitVec.toNat_ofNat, h]
  omega

/-- After Get, JumpIfEqual falls through: AC holds the draw (44_control_transfer.md R162). -/
theorem execJumpIfEqual_after_execGet (t : Word) (s : State) :
    ∃ u, execGet s = .next u ∧ execJumpIfEqual t u = .next { u with pc := wrap (u.pc.toInt + 1) } :=
  ⟨_, rfl, execJumpIfEqual_of_ne_zero t (drawValue_ne_zero s.draws)⟩

/-! ## The stack primitives (20_memory.md R46, R47) -/

theorem push_of_cell (v : Word) {s : State} (hr : Ready s) (hopt : s.params.checkStores = false) (ha : Cell s.sp) :
    push v s = .ok ()
      { s with
        mem := s.mem.write s.sp.toNat v
        sp := wrap (s.sp.toInt - 1)
        trace := s.trace ++ [.write s.sp v] } :=
  push_ready hr ((inRange_iff_cell _).mpr ha) (.inl hopt)

/-- A push that faults leaves SP as it was (20_memory.md R46). -/
theorem push_of_not_cell (v : Word) {s : State} (hr : Ready s) (hopt : s.params.checkStores = false)
    (ha : ¬ Cell s.sp) : push v s = .stop (.next (faultedState (.outOfRange s.sp s.mode s.pc) s)) := by
  rw [push, storeWord_eq_memWrite (.inl hopt), memWrite_outOfRange hr.1 ((not_inRange_iff _).mpr ha), Act.bind_stop]

theorem pop_of_cell {s : State} (hr : Ready s) (ha : Cell (wrap (s.sp.toInt + 1))) :
    pop s = .ok (s.mem.read (wrap (s.sp.toInt + 1)).toNat)
      { s with sp := wrap (s.sp.toInt + 1), trace := s.trace ++ [.read (wrap (s.sp.toInt + 1))] } :=
  pop_ready hr ((inRange_iff_cell _).mpr ha)

/-- A pop that faults finds SP incremented (20_memory.md R47). -/
theorem pop_of_not_cell {s : State} (hr : Ready s) (ha : ¬ Cell (wrap (s.sp.toInt + 1))) :
    pop s = .stop (.next (faultedState (.outOfRange (wrap (s.sp.toInt + 1)) s.mode s.pc)
      { s with sp := wrap (s.sp.toInt + 1) })) :=
  memRead_outOfRange (s := { s with sp := wrap (s.sp.toInt + 1) }) hr.1 ((not_inRange_iff _).mpr ha)

/-! ## Call with CHECK_STORES off, and Ret -/

theorem execCall_of_cell (t : Word) {s : State} (hr : Ready s) (hopt : s.params.checkStores = false) (ha : Cell s.sp) :
    execCall t s = .next
      { s with
        mem := s.mem.write s.sp.toNat (wrap (s.pc.toInt + 1))
        sp := wrap (s.sp.toInt - 1)
        pc := t
        trace := s.trace ++ [.write s.sp (wrap (s.pc.toInt + 1))] } := by
  rw [execCall, push_of_cell _ hr hopt ha, Act.finish_ok]

theorem execCall_of_not_cell (t : Word) {s : State} (hr : Ready s) (hopt : s.params.checkStores = false)
    (ha : ¬ Cell s.sp) : execCall t s = .next (faultedState (.outOfRange s.sp s.mode s.pc) s) := by
  rw [execCall, push_of_not_cell _ hr hopt ha, Act.finish_stop]

theorem execRet_of_cell {s : State} (hr : Ready s) (ha : Cell (wrap (s.sp.toInt + 1))) :
    execRet s = .next
      { s with
        pc := s.mem.read (wrap (s.sp.toInt + 1)).toNat
        sp := wrap (s.sp.toInt + 1)
        trace := s.trace ++ [.read (wrap (s.sp.toInt + 1))] } := by
  rw [execRet, pop_of_cell hr ha, Act.finish_ok]

theorem execRet_of_not_cell {s : State} (hr : Ready s) (ha : ¬ Cell (wrap (s.sp.toInt + 1))) :
    execRet s = .next (faultedState (.outOfRange (wrap (s.sp.toInt + 1)) s.mode s.pc)
      { s with sp := wrap (s.sp.toInt + 1) }) := by
  rw [execRet, pop_of_not_cell hr ha, Act.finish_stop]

/-! ## The obligations -/

/-- Settles O35: the meaning of Jump as it stands, and the row of opcode 20. -/
theorem jumpSetsPcToItsOperand : Obligations.JumpSetsPcToItsOperand := by
  unfold Obligations.JumpSetsPcToItsOperand
  exact ⟨fun _ _ => rfl, runsWithOperand_of_decodeOpcode rfl⟩

/-- Settles O36: the branch test both ways, a draw that is never 0, and the row of opcode 21. -/
theorem jumpIfEqualBranchesOnZero : Obligations.JumpIfEqualBranchesOnZero := by
  unfold Obligations.JumpIfEqualBranchesOnZero
  exact ⟨fun t _ => ⟨execJumpIfEqual_of_eq_zero t, execJumpIfEqual_of_ne_zero t⟩, execJumpIfEqual_after_execGet,
    runsWithOperand_of_decodeOpcode rfl⟩

/-- Settles O37: the branch test both ways, and the row of opcode 22. -/
theorem jumpIfNotEqualBranchesOnNonzero : Obligations.JumpIfNotEqualBranchesOnNonzero := by
  unfold Obligations.JumpIfNotEqualBranchesOnNonzero
  exact ⟨fun t _ => ⟨execJumpIfNotEqual_of_ne_zero t, execJumpIfNotEqual_of_eq_zero t⟩,
    runsWithOperand_of_decodeOpcode rfl⟩

/-- Settles O38: the push of the return address, done or faulting, and the row of opcode 23. -/
theorem callPushesTheReturnAddressAndJumps : Obligations.CallPushesTheReturnAddressAndJumps := by
  unfold Obligations.CallPushesTheReturnAddressAndJumps
  exact ⟨fun t _ hr hopt => ⟨execCall_of_cell t hr hopt, execCall_of_not_cell t hr hopt⟩,
    runsWithOperand_of_decodeOpcode rfl⟩

/-- Settles O39: the pop into PC, done or faulting; opcode 24 has no operand word. -/
theorem retPopsPc : Obligations.RetPopsPc := by
  unfold Obligations.RetPopsPc
  exact ⟨fun _ hr => ⟨execRet_of_cell hr, execRet_of_not_cell hr⟩, runsAlone_of_decodeOpcode rfl⟩

end Sys2Proof.Machine
end

section
/-! O41 (45_stack.md R180): Push is the stack primitive applied to AC, done or faulting. -/

namespace Sys2Proof.Machine

open Sys2Proof

/-! ## Push with CHECK_STORES off -/

theorem execPush_of_cell {s : State} (hr : Ready s) (hopt : s.params.checkStores = false) (ha : Cell s.sp) :
    execPush s = .next
      { s with
        mem := s.mem.write s.sp.toNat s.ac
        sp := wrap (s.sp.toInt - 1)
        pc := wrap (s.pc.toInt + 1)
        trace := s.trace ++ [.write s.sp s.ac] } := by
  rw [execPush, push_of_cell _ hr hopt ha, Act.finish_ok, advance]

theorem execPush_of_not_cell {s : State} (hr : Ready s) (hopt : s.params.checkStores = false) (ha : ¬ Cell s.sp) :
    execPush s = .next (faultedState (.outOfRange s.sp s.mode s.pc) s) := by
  rw [execPush, push_of_not_cell _ hr hopt ha, Act.finish_stop]

/-! ## The obligation -/

/-- Settles O41: the push of AC, done or faulting; opcode 27 has no operand word. -/
theorem pushWritesAcThenDecrementsSp : Obligations.PushWritesAcThenDecrementsSp := by
  unfold Obligations.PushWritesAcThenDecrementsSp
  exact ⟨fun _ hr hopt => ⟨execPush_of_cell hr hopt, execPush_of_not_cell hr hopt⟩, runsAlone_of_decodeOpcode rfl⟩

end Sys2Proof.Machine
end

section
/-! O55 (60_exceptions.md R221, R230 to R232): the mode. Trap entry and trap return are the only operations that write
it; every other instruction, and every fault, leaves it alone. -/

namespace Sys2Proof.Machine

open Sys2Proof

/-! ## Trap entry, trap return and the opcode fetch as relations between states -/

/-- What a trap entry at `s` leaves (60_exceptions.md R230). -/
structure TrapEntered (vector savedPc : Word) (s t : State) : Prop where
  mode : t.mode = .kernel
  sp : t.sp = 1997
  pc : t.pc = vector
  instrCount : t.instrCount = s.instrCount
  ir : t.ir = s.ir
  trace : t.trace = s.trace ++ [.write 1999 s.sp, .write 1998 savedPc]

/-- What a trap return at `s` leaves, also when one of its pops faults (46_system.md R191). -/
structure TrapReturned (s t : State) : Prop where
  mode : t.mode = .user
  instrCount : t.instrCount = s.instrCount
  ir : t.ir = s.ir

/-- `u` is the state in which a cycle begun at `s` executes, after the fetch of the opcode word `w` (30_encoding.md
R73). -/
structure OpcodeFetched (w : Word) (s u : State) : Prop where
  pc : u.pc = s.pc
  sp : u.sp = s.sp
  mode : u.mode = s.mode
  instrCount : u.instrCount = s.instrCount + 1
  ir : u.ir = w
  trace : u.trace = s.trace ++ [.read s.pc]

theorem trapEntered_of_trapEntry {vector savedPc : Word} {s t : State} (h : trapEntry vector savedPc s = .next t) :
    TrapEntered vector savedPc s t := by
  rcases trapEntry_cases vector savedPc s with ⟨-, m, st, e, -⟩ | e <;> rw [e] at h <;> cases h
  constructor <;> rfl

theorem trapReturned_of_trapReturn {s t : State} (h : trapReturn s = .next t) : TrapReturned s t := by
  obtain ⟨newPc, h⟩ | ⟨r, rfl⟩ := pop_finish_next h
  · obtain ⟨newSp, h⟩ | ⟨r, rfl⟩ := pop_finish_next h
    · cases h; constructor <;> rfl
    · constructor <;> rfl
  · constructor <;> rfl

/-! ## The mode after each instruction -/

theorem execStore_mode {a : Word} {s t : State} (h : execStore a s = .next t) : t.mode = s.mode := by
  obtain ⟨m, st, e⟩ | ⟨r, rfl⟩ := storeWord_finish_next h
  · cases e; rfl
  · rfl

theorem push_finish_mode {v : Word} {s t : State} {k : Unit → State → Out}
    (hk : ∀ u t, k () u = .next t → t.mode = u.mode) (h : (push v s).finish k = .next t) : t.mode = s.mode := by
  obtain ⟨m, st, e⟩ | ⟨r, rfl⟩ := push_finish_next h
  · exact (hk _ _ e :)
  · rfl

theorem pop_finish_mode {s t : State} {k : Word → State → Out}
    (hk : ∀ v u t, k v u = .next t → t.mode = u.mode) (h : (pop s).finish k = .next t) : t.mode = s.mode := by
  obtain ⟨v, e⟩ | ⟨r, rfl⟩ := pop_finish_next h
  · exact (hk _ _ _ e :)
  · rfl

theorem loadChecked_mode {a : Word} {s t : State} (h : loadChecked a s = .next t) : t.mode = s.mode := by
  rcases loadChecked_next h with ⟨-, -, -, rfl⟩ | ⟨-, -, rfl⟩ | ⟨-, -, -, rfl⟩ <;> rfl

theorem execLoadInd_mode {a : Word} {s t : State} (h : execLoadInd a s = .next t) : t.mode = s.mode := by
  rcases execLoadInd_next h with ⟨-, -, -, rfl⟩ | ⟨-, -, rfl⟩ | ⟨-, -, rfl⟩ | ⟨_, -, -, -, rfl⟩ | ⟨_, -, -, -, rfl⟩ <;>
    rfl

theorem execPut_mode {p : Word} {s t : State} (h : execPut p s = .next t) : t.mode = s.mode := by
  unfold execPut at h
  split at h
  · cases h; rfl
  · split at h
    · cases h; rfl
    · rw [fatal_next h, faultedState_mode]

theorem execEnd_mode {s t : State} (h : execEnd s = .next t) : t.mode = s.mode := by
  rcases execEnd_cases s with ⟨-, e⟩ | e <;> rw [e] at h <;> cases h
  rfl

/-- Int is a trap entry in user mode; in kernel mode it is a fault, which keeps the mode (46_system.md R190). -/
theorem execInt_mode {s t : State} (h : execInt s = .next t) :
    t.mode = s.mode ∨ TrapEntered 1500 (wrap (s.pc.toInt + 1)) s t := by
  unfold execInt at h
  split at h
  · exact .inl (by rw [fatal_next h, faultedState_mode])
  · exact .inr (trapEntered_of_trapEntry h)

theorem exec_mode_of_ne_trap {i : Instr} {s t : State} (hint : i ≠ .int) (hiret : i ≠ .iret)
    (h : exec i s = .next t) : t.mode = s.mode := by
  cases i with
  | int => exact absurd rfl hint
  | iret => exact absurd rfl hiret
  | loadAddr | loadIdxX | loadIdxY | loadSpX => exact loadChecked_mode h
  | loadInd => exact execLoadInd_mode h
  | store => exact execStore_mode h
  | put => exact execPut_mode h
  | push | call => exact push_finish_mode (fun _ _ e => by cases e; rfl) h
  | pop | ret => exact pop_finish_mode (fun _ _ _ e => by cases e; rfl) h
  | endRun => exact execEnd_mode h
  | loadValue | get | addX | addY | subX | subY | incX | decX | jump => cases h; rfl
  | jumpIfEqual | jumpIfNotEqual =>
    simp only [exec, execJumpIfEqual, execJumpIfNotEqual] at h
    split at h <;> cases h <;> rfl
  | copyToX | copyFromX | copyToY | copyFromY | copyToSp | copyFromSp =>
    simp only [exec, execCopyToX, execCopyFromX, execCopyToY, execCopyFromY, execCopyToSp, execCopyFromSp] at h
    split at h <;> cases h <;> rfl

/-! ## The mode after a step -/

/-- The relation of 60_exceptions.md R221 between the states before and after a step: the mode is kept, or the step is
a timer entry (R231), a system call (R232) or a trap return. -/
def ModeKeptOrTrap (s t : State) : Prop :=
  t.mode = s.mode ∨ TrapEntered 1000 s.pc s t ∨
    (∃ u, OpcodeFetched 29 s u ∧ TrapEntered 1500 (wrap (u.pc.toInt + 1)) u t) ∨
    ∃ u, OpcodeFetched 30 s u ∧ TrapReturned u t

theorem timerEntered_of_admitted {s s₁ t : State} (hadm : admissionCheck s = .ok true s₁)
    (h : timerEntry s₁ = .next t) : TrapEntered 1000 s.pc s t := by
  obtain ⟨-, -, hpc, hsp, hir, -, -, -, -, hcount, -, -, htrace, -⟩ := admissionCheck_enter hadm
  obtain ⟨mode, sp, pc, instrCount, ir, trace⟩ := trapEntered_of_trapEntry h
  exact ⟨mode, sp, pc, instrCount.trans hcount, ir.trans hir, by rw [trace, hpc, hsp, htrace]⟩

/-- The state after the fetch that follows an admission check answering NONE. -/
theorem opcodeFetched_of_none {s s₁ : State} (w : Word) (hadm : admissionCheck s = .ok false s₁) :
    OpcodeFetched w s
      { s₁ with ir := w, instrCount := s₁.instrCount + 1, trace := s₁.trace ++ [.read s₁.pc] } := by
  obtain ⟨hpc, hsp, -, -, -, -, hmode, hcount, -, -, htrace, -⟩ := admissionCheck_none hadm
  exact ⟨hpc, hsp, hmode, congrArg (· + 1) hcount, rfl, by rw [htrace, hpc]⟩

/-- An instruction of one word: its opcode word, which the fetch put in IR, tells Int and IRet from all others. -/
theorem exec_one_mode {s u t : State} {w : Word} {i : Instr} (hu : OpcodeFetched w s u)
    (hdec : decodeOpcode w.toNat = some (.one i)) (h : exec i u = .next t) : ModeKeptOrTrap s t := by
  have hw : w = opcodeWord i := BitVec.eq_of_toNat_eq (decodeOpcode_one hdec).2.symm
  subst hw
  by_cases hint : i = .int
  · subst hint
    obtain hkept | hentered := execInt_mode h
    · exact .inl (hkept.trans hu.mode)
    · exact .inr (.inr (.inl ⟨u, hu, hentered⟩))
  by_cases hiret : i = .iret
  · subst hiret
    exact .inr (.inr (.inr ⟨u, hu, trapReturned_of_trapReturn h⟩))
  · exact .inl ((exec_mode_of_ne_trap hint hiret h).trans hu.mode)

/-- An instruction with an operand word is neither Int nor IRet. -/
theorem exec_two_mode {n : Nat} {f : Word → Instr} {v : Word} {s t : State}
    (hdec : decodeOpcode n = some (.two f)) (h : exec (f v) s = .next t) : t.mode = s.mode := by
  have hop : (f v).operand = some v := (decodeOpcode_two hdec v).1
  exact exec_mode_of_ne_trap (fun e => by simp [e, Instr.operand] at hop) (fun e => by simp [e, Instr.operand] at hop) h

theorem step_mode {s t : State} (h : step s = .next t) : ModeKeptOrTrap s t := by
  obtain ⟨-, -, ⟨-, -, -, -, rfl⟩ | ⟨s₁, hadm, hentry⟩ | ⟨s₁, hadm, hfetch⟩⟩ := step_next h
  · exact .inl rfl
  · exact .inr (.inl (timerEntered_of_admitted hadm hentry))
  · have hfetched := opcodeFetched_of_none (s₁.mem.read s₁.pc.toNat) hadm
    have hmode : s₁.mode = s.mode := hfetched.mode
    obtain ⟨-, -, -, rfl⟩ | ⟨-, -, -, -, rfl⟩ | ⟨s₂, -, -, -, -, rfl, hexec⟩ := hfetch
    · exact .inl hmode
    · exact .inl hmode
    · obtain ⟨-, rfl⟩ | ⟨i, hdec, hrun⟩ | ⟨f, -, -, rfl⟩ | ⟨f, hdec, -, hrun⟩ := hexec
      · exact .inl hmode
      · exact exec_one_mode hfetched hdec hrun
      · exact .inl hmode
      · exact .inl ((exec_two_mode hdec hrun).trans hmode)

/-- Settles O55: reset by the definition of `State.boot`; for a step, the cases of `step_mode` that end in the mode the
clause names. -/
theorem modeChangesOnlyByTrapEntryAndIRet : Obligations.ModeChangesOnlyByTrapEntryAndIRet := by
  unfold Obligations.ModeChangesOnlyByTrapEntryAndIRet
  refine ⟨fun _ => rfl, fun s t h => ⟨fun hs ht => ?entersKernel, fun hs ht => ?entersUser⟩⟩
  case entersKernel =>
    obtain hkept | htimer | ⟨u, hu, hcall⟩ | ⟨u, -, hret⟩ := step_mode h
    · simp [hkept, hs] at ht
    · exact ⟨htimer.sp, .inl ⟨htimer.pc, htimer.instrCount, htimer.ir, htimer.trace⟩⟩
    · refine ⟨hcall.sp, .inr ⟨hcall.pc, hcall.instrCount.trans hu.instrCount, hcall.ir.trans hu.ir, ?_⟩⟩
      rw [hcall.trace, hu.trace, hu.sp, hu.pc, List.append_assoc, List.singleton_append]
    · simp [hret.mode] at ht
  case entersUser =>
    obtain hkept | htimer | ⟨u, -, hcall⟩ | ⟨u, hu, hret⟩ := step_mode h
    · simp [hkept, hs] at ht
    · simp [htimer.mode] at ht
    · simp [hcall.mode] at ht
    · exact ⟨hret.ir.trans hu.ir, hret.instrCount.trans hu.instrCount⟩

end Sys2Proof.Machine
end

section
/-! O4 to O6 (30_encoding.md R70, R71, R76 to R79): the decoder and the encoder. The opcode table settles everything:
its rows give back the words of their instructions, and its codes are 1..30 and 50. -/

namespace Sys2Proof

/-! ## The decoder by the shape of the opcode word -/

theorem decode_cons_of_none {w : Word} (h : decodeOpcode w.toNat = none) (rest : List Word) :
    decode (w :: rest) = .error (.illegalOpcode w) := by
  simp only [decode, h]

theorem decode_cons_of_one {w : Word} {i : Instr} (h : decodeOpcode w.toNat = some (.one i)) (rest : List Word) :
    decode (w :: rest) = .ok (i, rest) := by
  simp only [decode, h]

theorem decode_singleton_of_two {w : Word} {f : Word → Instr} (h : decodeOpcode w.toNat = some (.two f)) :
    decode [w] = .error (.missingOperand w) := by
  simp only [decode, h]

theorem decode_cons_cons_of_two {w : Word} {f : Word → Instr} (h : decodeOpcode w.toNat = some (.two f)) (v : Word)
    (rest : List Word) : decode (w :: v :: rest) = .ok (f v, rest) := by
  simp only [decode, h]

/-! ## The encoder against the opcode table -/

theorem encode_of_one {w : Word} {i : Instr} (h : decodeOpcode w.toNat = some (.one i)) : encode i = [w] := by
  obtain ⟨hop, hcode⟩ := Machine.decodeOpcode_one h
  rw [encode, hop, BitVec.eq_of_toNat_eq hcode, Option.toList_none]

theorem encode_of_two {w : Word} {f : Word → Instr} (h : decodeOpcode w.toNat = some (.two f)) (v : Word) :
    encode (f v) = [w, v] := by
  obtain ⟨hop, hcode⟩ := Machine.decodeOpcode_two h v
  rw [encode, hop, BitVec.eq_of_toNat_eq hcode, Option.toList_some]

/-- Row by row of the opcode map (30_encoding.md R77): the decoder reads back what the encoder wrote. -/
theorem decode_encode_append (i : Instr) (rest : List Word) : decode (encode i ++ rest) = .ok (i, rest) := by
  cases i <;> rfl

/-- What the decoder accepts begins with the words of the instruction it answers. -/
theorem eq_encode_append_of_decode {ws rest : List Word} {i : Instr} (h : decode ws = .ok (i, rest)) :
    ws = encode i ++ rest := by
  cases ws with
  | nil => cases h
  | cons w ws =>
    match hdec : decodeOpcode w.toNat with
    | none => rw [decode_cons_of_none hdec] at h; cases h
    | some (.one j) =>
      rw [decode_cons_of_one hdec] at h
      cases h
      rw [encode_of_one hdec, List.singleton_append]
    | some (.two f) =>
      cases ws with
      | nil => rw [decode_singleton_of_two hdec] at h; cases h
      | cons v ws =>
        rw [decode_cons_cons_of_two hdec] at h
        cases h
        rw [encode_of_two hdec, List.cons_append, List.singleton_append]

/-! ## The illegal opcode words (decision D5) -/

theorem decodeOpcode_eq_none_iff (n : Nat) : decodeOpcode n = none ↔ ¬ ((1 ≤ n ∧ n ≤ 30) ∨ n = 50) := by
  unfold decodeOpcode
  split
  case h_32 =>
    simp only [imp_false, true_iff] at *
    omega
  all_goals simp

/-- A code of the map is a small positive number, whose signed and unsigned readings agree. -/
theorem toInt_mem_codes_iff (w : Word) :
    ((1 ≤ w.toInt ∧ w.toInt ≤ 30) ∨ w.toInt = 50) ↔ ((1 ≤ w.toNat ∧ w.toNat ≤ 30) ∨ w.toNat = 50) := by
  have h := BitVec.toInt_eq_toNat_cond w
  have hlt := w.isLt
  split at h <;> omega

theorem decodeOpcode_toNat_eq_none_iff (w : Word) :
    decodeOpcode w.toNat = none ↔ ¬ ((1 ≤ w.toInt ∧ w.toInt ≤ 30) ∨ w.toInt = 50) := by
  rw [decodeOpcode_eq_none_iff, toInt_mem_codes_iff]

theorem decode_cons_eq_illegalOpcode_iff (w : Word) (rest : List Word) :
    decode (w :: rest) = .error (.illegalOpcode w) ↔ decodeOpcode w.toNat = none := by
  refine ⟨fun h => ?_, fun h => decode_cons_of_none h rest⟩
  match hdec : decodeOpcode w.toNat with
  | none => rfl
  | some (.one i) => rw [decode_cons_of_one hdec] at h; cases h
  | some (.two f) =>
    cases rest with
    | nil => rw [decode_singleton_of_two hdec] at h; cases h
    | cons v rest => rw [decode_cons_cons_of_two hdec] at h; cases h

/-! ## The obligations -/

/-- Settles O4: each direction of the round trip. -/
theorem decodeInvertsEncode : Obligations.DecodeInvertsEncode := by
  unfold Obligations.DecodeInvertsEncode
  exact fun ws i rest => ⟨eq_encode_append_of_decode, fun h => h ▸ decode_encode_append i rest⟩

/-- Settles O5: the words with no row in the opcode map. -/
theorem decodeRejectsExactlyTheOtherWords : Obligations.DecodeRejectsExactlyTheOtherWords := by
  unfold Obligations.DecodeRejectsExactlyTheOtherWords
  exact fun w rest => (decode_cons_eq_illegalOpcode_iff w rest).trans (decodeOpcode_toNat_eq_none_iff w)

/-- Settles O6: the ten words are the encodings of their instructions, and the table word is the two words of
LoadAddr 1200. -/
theorem tableWordsDecodeToTheirInstructions : Obligations.TableWordsDecodeToTheirInstructions := by
  unfold Obligations.TableWordsDecodeToTheirInstructions
  exact ⟨decode_encode_append (.loadValue (-7)) [], decode_encode_append (.store 300) [],
    decode_encode_append .get [], decode_encode_append (.put 2) [], decode_encode_append .subX [],
    decode_encode_append .copyFromSp [], decode_encode_append (.call 10) [], decode_encode_append .push [],
    decode_encode_append .endRun [], rfl⟩

end Sys2Proof
end

section
/-! O47 (10_state.md R36): the write columns of the access table. Each operation changes only the pieces it names, in
every state and on its faulting paths too; the row of an instruction is that of the operations it is built from. -/

namespace Sys2Proof.Machine

open Sys2Proof

/-- From `s` to `t` nothing has changed but the pieces listed, PC, the status and the protocol. -/
def KeptOutside (ps : List Piece) (s t : State) : Prop :=
  (.ac ∉ ps → t.ac = s.ac) ∧ (.x ∉ ps → t.x = s.x) ∧ (.y ∉ ps → t.y = s.y) ∧ (.sp ∉ ps → t.sp = s.sp) ∧
  (.mode ∉ ps → t.mode = s.mode) ∧ (.mem ∉ ps → t.mem = s.mem) ∧ (.out ∉ ps → t.out = s.out) ∧
  (.draws ∉ ps → t.draws = s.draws) ∧ t.ir = s.ir ∧ t.instrCount = s.instrCount ∧ t.pending = s.pending ∧
  t.params = s.params ∧ t.timerServedAt = s.timerServedAt

theorem keptOutside_faultedState (ps : List Piece) (r : FaultRecord) (s : State) :
    KeptOutside ps s (faultedState r s) := by
  simp [KeptOutside]

theorem keptOutside_of_fatal (ps : List Piece) {r : FaultRecord} {s t : State} (h : fatal r s = .next t) :
    KeptOutside ps s t :=
  fatal_next h ▸ keptOutside_faultedState ps r s

/-! ## What each operation keeps -/

theorem loadChecked_keptOutside {a : Word} {s t : State} (h : loadChecked a s = .next t) : KeptOutside [.ac] s t := by
  rcases loadChecked_next h with ⟨-, -, -, rfl⟩ | ⟨-, -, rfl⟩ | ⟨-, -, -, rfl⟩ <;> simp [KeptOutside]

theorem execLoadInd_keptOutside {a : Word} {s t : State} (h : execLoadInd a s = .next t) : KeptOutside [.ac] s t := by
  rcases execLoadInd_next h with ⟨-, -, -, rfl⟩ | ⟨-, -, rfl⟩ | ⟨-, -, rfl⟩ | ⟨_, -, -, -, rfl⟩ | ⟨_, -, -, -, rfl⟩ <;>
    simp [KeptOutside]

theorem execStore_keptOutside {a : Word} {s t : State} (h : execStore a s = .next t) : KeptOutside [.mem] s t := by
  obtain ⟨m, st, e⟩ | ⟨r, rfl⟩ := storeWord_finish_next h
  · cases e; simp [KeptOutside]
  · exact keptOutside_faultedState _ r s

theorem execPush_keptOutside {s t : State} (h : execPush s = .next t) : KeptOutside [.sp, .mem] s t := by
  obtain ⟨m, st, e⟩ | ⟨r, rfl⟩ := push_finish_next h
  · cases e; simp [KeptOutside]
  · exact keptOutside_faultedState _ r s

theorem execCall_keptOutside {a : Word} {s t : State} (h : execCall a s = .next t) :
    KeptOutside [.sp, .mem] s t := by
  obtain ⟨m, st, e⟩ | ⟨r, rfl⟩ := push_finish_next h
  · cases e; simp [KeptOutside]
  · exact keptOutside_faultedState _ r s

theorem execPop_keptOutside {s t : State} (h : execPop s = .next t) : KeptOutside [.ac, .sp] s t := by
  obtain ⟨v, e⟩ | ⟨r, rfl⟩ := pop_finish_next h
  · cases e; simp [KeptOutside]
  · simp [KeptOutside]

theorem execRet_keptOutside {s t : State} (h : execRet s = .next t) : KeptOutside [.sp] s t := by
  obtain ⟨v, e⟩ | ⟨r, rfl⟩ := pop_finish_next h
  · cases e; simp [KeptOutside]
  · simp [KeptOutside]

theorem trapEntry_keptOutside {vector savedPc : Word} {s t : State} (h : trapEntry vector savedPc s = .next t) :
    KeptOutside [.sp, .mode, .mem] s t := by
  rcases trapEntry_cases vector savedPc s with ⟨-, m, st, e, -⟩ | e <;> rw [e] at h <;> cases h
  simp [KeptOutside]

theorem execInt_keptOutside {s t : State} (h : execInt s = .next t) : KeptOutside [.sp, .mode, .mem] s t := by
  unfold execInt at h
  split at h
  · exact keptOutside_of_fatal _ h
  · exact trapEntry_keptOutside h

theorem trapReturn_keptOutside {s t : State} (h : trapReturn s = .next t) : KeptOutside [.sp, .mode] s t := by
  obtain ⟨newPc, h⟩ | ⟨r, rfl⟩ := pop_finish_next h
  · obtain ⟨newSp, h⟩ | ⟨r, rfl⟩ := pop_finish_next h
    · cases h; simp [KeptOutside]
    · simp [KeptOutside]
  · simp [KeptOutside]

theorem execPut_keptOutside {p : Word} {s t : State} (h : execPut p s = .next t) : KeptOutside [.out] s t := by
  unfold execPut at h
  split at h
  · cases h; simp [KeptOutside]
  · split at h
    · cases h; simp [KeptOutside]
    · exact keptOutside_of_fatal _ h

theorem execEnd_keptOutside {s t : State} (h : execEnd s = .next t) : KeptOutside [] s t := by
  rcases execEnd_cases s with ⟨-, e⟩ | e <;> rw [e] at h <;> cases h
  simp [KeptOutside]

theorem execGet_keptOutside {s t : State} (h : execGet s = .next t) : KeptOutside [.ac, .draws] s t := by
  cases h; simp [KeptOutside, draw]

/-! ## What each instruction keeps -/

theorem exec_keptOutside {i : Instr} {s t : State} (h : exec i s = .next t) :
    KeptOutside (written s.params i) s t := by
  cases i with
  | loadAddr | loadIdxX | loadIdxY | loadSpX => exact loadChecked_keptOutside h
  | loadInd => exact execLoadInd_keptOutside h
  | store => exact execStore_keptOutside h
  | get => exact execGet_keptOutside h
  | put => exact execPut_keptOutside h
  | push => exact execPush_keptOutside h
  | call => exact execCall_keptOutside h
  | pop => exact execPop_keptOutside h
  | ret => exact execRet_keptOutside h
  | int => exact execInt_keptOutside h
  | iret => exact trapReturn_keptOutside h
  | endRun => exact execEnd_keptOutside h
  | loadValue | addX | addY | subX | subY | incX | decX | jump => cases h; simp [KeptOutside, written]
  | jumpIfEqual | jumpIfNotEqual =>
    simp only [exec, execJumpIfEqual, execJumpIfNotEqual] at h
    split at h <;> cases h <;> simp [KeptOutside]
  | copyToX | copyFromX | copyToY | copyFromY | copyToSp | copyFromSp =>
    simp only [exec, execCopyToX, execCopyFromX, execCopyToY, execCopyFromY, execCopyToSp, execCopyFromSp] at h
    split at h <;> cases h <;> simp [KeptOutside, written, copyTarget, *]

/-- Settles O47: `KeptOutside` at the instruction's row of the access table. -/
theorem executionWritesOnlyItsTableRow : Obligations.ExecutionWritesOnlyItsTableRow := by
  unfold Obligations.ExecutionWritesOnlyItsTableRow
  exact fun _ _ _ h => exec_keptOutside h

/-! ## The parts of the frame that no row names -/

theorem exec_ir {i : Instr} {s t : State} (h : exec i s = .next t) : t.ir = s.ir := by
  obtain ⟨-, -, -, -, -, -, -, -, hir, -⟩ := exec_keptOutside h
  exact hir

theorem exec_instrCount {i : Instr} {s t : State} (h : exec i s = .next t) : t.instrCount = s.instrCount := by
  obtain ⟨-, -, -, -, -, -, -, -, -, hcount, -⟩ := exec_keptOutside h
  exact hcount

theorem exec_pending {i : Instr} {s t : State} (h : exec i s = .next t) : t.pending = s.pending := by
  obtain ⟨-, -, -, -, -, -, -, -, -, -, hpending, -⟩ := exec_keptOutside h
  exact hpending

theorem exec_mode {i : Instr} {s t : State} (h : exec i s = .next t) (hi : .mode ∉ written s.params i) :
    t.mode = s.mode := by
  obtain ⟨-, -, -, -, hmode, -⟩ := exec_keptOutside h
  exact hmode hi

theorem exec_mem {i : Instr} {s t : State} (h : exec i s = .next t) (hi : .mem ∉ written s.params i) :
    t.mem = s.mem := by
  obtain ⟨-, -, -, -, -, hmem, -⟩ := exec_keptOutside h
  exact hmem hi

end Sys2Proof.Machine
end

section
/-! O48 and O49 (20_memory.md R57, R62): memory after the four storing instructions. One write either is done by a
serving store or is lost, and leaves every other cell alone both ways. -/

namespace Sys2Proof.Machine

open Sys2Proof

/-- `m` is memory after the write of `v` to `a` was sent at `s`: a store that is not serving loses it (20_memory.md
R59). -/
def WrittenAt (s : State) (a v : Word) (m : Mem) : Prop :=
  (s.store = .serving ∧ m = s.mem.write a.toNat v) ∨ (s.store ≠ .serving ∧ m = s.mem)

theorem WrittenAt.read_other {s : State} {a v : Word} {m : Mem} (h : WrittenAt s a v m) {b : Nat} (hb : b ≠ a.toNat) :
    m.read b = s.mem.read b := by
  obtain ⟨-, rfl⟩ | ⟨-, rfl⟩ := h
  · exact Mem.read_write_other s.mem v hb
  · rfl

theorem WrittenAt.read_same {s : State} {a v : Word} {m : Mem} (h : WrittenAt s a v m) (hs : s.store = .serving)
    (hwf : s.mem.Wf) : m.read a.toNat = v := by
  obtain ⟨-, rfl⟩ | ⟨hns, -⟩ := h
  · exact Mem.read_write_same s.mem a.toNat v hwf
  · exact absurd hs hns

/-! ## The storing instructions -/

theorem execStore_mem {a : Word} {s t : State} (h : execStore a s = .next t) :
    WrittenAt s a s.ac t.mem ∨ ∃ r, t = faultedState r s := by
  unfold execStore at h
  rcases storeWord_cases a s.ac s with ⟨-, -, m, st, e, hm⟩ | ⟨-, -, -, e⟩ | ⟨-, -, e⟩ | ⟨f, e⟩ <;> rw [e] at h <;>
    cases h
  · exact .inl (hm.imp (fun ⟨hs, hm, _⟩ => ⟨hs, hm⟩) fun ⟨hs, hm, _⟩ => ⟨hs, hm⟩)
  · exact .inr ⟨_, rfl⟩
  · exact .inr ⟨_, rfl⟩

/-- A push whose rest of the cycle leaves memory alone. -/
theorem push_finish_mem {v : Word} {s t : State} {k : Unit → State → Out}
    (hk : ∀ u t, k () u = .next t → t.mem = u.mem) (h : (push v s).finish k = .next t) :
    WrittenAt s s.sp v t.mem ∨ ∃ r, t = faultedState r s := by
  rcases push_cases v s with ⟨-, -, m, st, e, hm⟩ | ⟨-, -, -, e⟩ | ⟨-, -, e⟩ | ⟨f, e⟩ <;> rw [e] at h
  · rw [hk _ _ h]
    exact .inl (hm.imp (fun ⟨hs, hm, _⟩ => ⟨hs, hm⟩) fun ⟨hs, hm, _⟩ => ⟨hs, hm⟩)
  · cases h; exact .inr ⟨_, rfl⟩
  · cases h; exact .inr ⟨_, rfl⟩
  · cases h

theorem execPush_mem {s t : State} (h : execPush s = .next t) :
    WrittenAt s s.sp s.ac t.mem ∨ ∃ r, t = faultedState r s :=
  push_finish_mem (fun _ _ e => by cases e; rfl) h

theorem execCall_mem {a : Word} {s t : State} (h : execCall a s = .next t) :
    WrittenAt s s.sp (wrap (s.pc.toInt + 1)) t.mem ∨ ∃ r, t = faultedState r s :=
  push_finish_mem (fun _ _ e => by cases e; rfl) h

theorem trapEntry_read_other {vector savedPc : Word} {s t : State} (h : trapEntry vector savedPc s = .next t) {b : Nat}
    (h₁ : b ≠ 1999) (h₂ : b ≠ 1998) : t.mem.read b = s.mem.read b := by
  rcases trapEntry_cases vector savedPc s with ⟨-, m, st, e, hm⟩ | e <;> rw [e] at h <;> cases h
  obtain ⟨-, rfl, -⟩ | ⟨-, rfl, -⟩ := hm
  · exact (Mem.read_write_other _ _ h₂).trans (Mem.read_write_other _ _ h₁)
  · rfl

theorem execInt_read_other {s t : State} (h : execInt s = .next t) {b : Nat} (h₁ : b ≠ 1999) (h₂ : b ≠ 1998) :
    t.mem.read b = s.mem.read b := by
  unfold execInt at h
  split at h
  · rw [fatal_next h, faultedState_mem]
  · exact trapEntry_read_other h h₁ h₂

/-- The two words a trap entry saves (60_exceptions.md R230), read back. -/
theorem read_savedSp (m : Mem) (oldSp savedPc : Word) (hm : m.Wf) :
    ((m.write 1999 oldSp).write 1998 savedPc).read 1999 = oldSp := by
  rw [Mem.read_write_other _ _ (by decide), Mem.read_write_same _ _ _ hm]

theorem read_savedPc (m : Mem) (oldSp savedPc : Word) (hm : m.Wf) :
    ((m.write 1999 oldSp).write 1998 savedPc).read 1998 = savedPc :=
  Mem.read_write_same _ _ _ (Mem.write_wf _ hm (by decide))

theorem execInt_user {s : State} (hr : Ready s) (hm : s.mode = .user) :
    execInt s = .next
      { s with
        mode := .kernel
        pc := 1500
        sp := 1997
        mem := (s.mem.write 1999 s.sp).write 1998 (wrap (s.pc.toInt + 1))
        trace := s.trace ++ [.write 1999 s.sp, .write 1998 (wrap (s.pc.toInt + 1))] } := by
  simp only [execInt, hm]
  exact trapEntry_ready hr

theorem execInt_kernel {s : State} (hr : Ready s) (hm : s.mode = .kernel) :
    execInt s = .next (faultedState (.kernelSyscall s.pc) s) := by
  simp only [execInt, hm]
  exact fatal_idle _ hr.1

theorem not_mem_copyTarget {dir : Config.CopyDir} {p d e : Piece} (hd : p ≠ d) (he : p ≠ e) :
    p ∉ copyTarget dir d e := by
  cases dir <;> simp [copyTarget, hd, he]

/-! ## The obligations -/

/-- Settles O48: the storing instructions one by one; the rows of all others do not name memory. -/
theorem executionWritesOnlyItsStoredCells : Obligations.ExecutionWritesOnlyItsStoredCells := by
  unfold Obligations.ExecutionWritesOnlyItsStoredCells
  intro i s t h b hb
  cases i with
  | store a =>
    obtain hw | ⟨r, rfl⟩ := execStore_mem h
    · exact hw.read_other (by simpa [storedCells] using hb)
    · rfl
  | push =>
    obtain hw | ⟨r, rfl⟩ := execPush_mem h
    · exact hw.read_other (by simpa [storedCells] using hb)
    · rfl
  | call a =>
    obtain hw | ⟨r, rfl⟩ := execCall_mem h
    · exact hw.read_other (by simpa [storedCells] using hb)
    · rfl
  | int =>
    obtain ⟨h₁, h₂⟩ : b ≠ 1999 ∧ b ≠ 1998 := by simpa [storedCells] using hb
    exact execInt_read_other h h₁ h₂
  | copyToX | copyFromX | copyToY | copyFromY | copyToSp | copyFromSp =>
    rw [exec_mem h (not_mem_copyTarget (by decide) (by decide))]
  | _ => rw [exec_mem h (by simp [written])]

/-- A fault ends the run, so an execution that went on has done its write. -/
theorem WrittenAt.of_running {s t : State} {a v : Word} (h : WrittenAt s a v t.mem ∨ ∃ r, t = faultedState r s)
    (ht : t.status = .running) : WrittenAt s a v t.mem := by
  obtain hw | ⟨r, rfl⟩ := h
  · exact hw
  · cases ht

/-- Settles O49: the write of a storing instruction that goes on, read back from canonical memory. -/
theorem storingInstructionsLeaveTheirWordInMemory : Obligations.StoringInstructionsLeaveTheirWordInMemory := by
  unfold Obligations.StoringInstructionsLeaveTheirWordInMemory
  intro s t hr hwf ht
  refine ⟨fun a h => ?store, fun h => ?push, fun a h => ?call, fun h => ?int⟩
  case store => exact (WrittenAt.of_running (execStore_mem h) ht).read_same hr.2 hwf
  case push => exact (WrittenAt.of_running (execPush_mem h) ht).read_same hr.2 hwf
  case call => exact (WrittenAt.of_running (execCall_mem h) ht).read_same hr.2 hwf
  case int =>
    have h : execInt s = .next t := h
    cases hm : s.mode with
    | user =>
      rw [execInt_user hr hm] at h
      cases h
      exact ⟨read_savedSp s.mem s.sp _ hwf, read_savedPc s.mem s.sp _ hwf⟩
    | kernel =>
      rw [execInt_kernel hr hm] at h
      cases h
      cases ht

end Sys2Proof.Machine
end

section
/-! How a part of an instruction cycle can end (20_memory.md R50 to R62, 60_exceptions.md R238 to R240): it has sent
some requests, each naming a cell, and then goes on, faults with a record from a given table, or halts. The parts compose
by `ends_finish`, and every instruction is composed of them. -/

namespace Sys2Proof.Machine

open Sys2Proof Sys2Proof.Config

/-! ## Requests sent -/

/-- From `s` to `t` the CORE has gone on and has sent requests to cells only; when it was between requests it still is,
and memory is what the writes sent make of it (20_memory.md R60 to R62). -/
def Sends (s t : State) : Prop :=
  t.status = s.status ∧ t.params = s.params ∧
    ∃ sent, t.trace = s.trace ++ sent ∧ (∀ r ∈ sent, r.InRange ∧ r ≠ .shutdown) ∧
      (Ready s → Ready t ∧ t.mem = replay s.mem sent)

theorem replay_append (m : Mem) (l₁ l₂ : List Request) : replay m (l₁ ++ l₂) = replay (replay m l₁) l₂ := by
  induction l₁ generalizing m with
  | nil => rfl
  | cons r rest ih => cases r <;> exact ih _

theorem Sends.refl (s : State) : Sends s s :=
  ⟨rfl, rfl, [], by simp, by simp, fun hr => ⟨hr, rfl⟩⟩

theorem Sends.trans {s t u : State} (h₁ : Sends s t) (h₂ : Sends t u) : Sends s u := by
  obtain ⟨hst₁, hp₁, sent₁, htr₁, hin₁, hmem₁⟩ := h₁
  obtain ⟨hst₂, hp₂, sent₂, htr₂, hin₂, hmem₂⟩ := h₂
  refine ⟨hst₂.trans hst₁, hp₂.trans hp₁, sent₁ ++ sent₂, by rw [htr₂, htr₁, List.append_assoc], ?inRange, ?memory⟩
  case inRange => exact fun r hr => (List.mem_append.mp hr).elim (hin₁ r) (hin₂ r)
  case memory =>
    intro hr
    obtain ⟨hrt, hmt⟩ := hmem₁ hr
    obtain ⟨hru, hmu⟩ := hmem₂ hrt
    exact ⟨hru, by rw [hmu, hmt, replay_append]⟩

theorem Sends.ready {s t : State} (h : Sends s t) (hr : Ready s) : Ready t := by
  obtain ⟨-, -, _, -, -, hmem⟩ := h
  exact (hmem hr).1

theorem sends_read {a : Word} {s : State} (ha : inRange a = true) :
    Sends s { s with trace := s.trace ++ [.read a] } :=
  ⟨rfl, rfl, [.read a], rfl, by simpa [Request.InRange] using (inRange_iff_cell a).mp ha, fun hr => ⟨hr, rfl⟩⟩

/-- A write as `storeWord_cases` describes it. -/
theorem sends_write {a v : Word} {s : State} {m : Mem} {st : StoreFsm} (ha : inRange a = true)
    (hm : (s.store = .serving ∧ m = s.mem.write a.toNat v ∧ st = .serving) ∨
      (s.store ≠ .serving ∧ m = s.mem ∧ st = .terminated)) :
    Sends s { s with mem := m, trace := s.trace ++ [.write a v], store := st } := by
  refine ⟨rfl, rfl, [.write a v], rfl, by simpa [Request.InRange] using (inRange_iff_cell a).mp ha, fun hr => ?_⟩
  obtain ⟨-, rfl, rfl⟩ | ⟨hns, -, -⟩ := hm
  · exact ⟨⟨hr.1, rfl⟩, rfl⟩
  · exact absurd hr.2 hns

/-! ## The end of a part -/

/-- `t` is how a cycle that stands at `s` can end, when the faults it can raise in a state `u` are those of `F u`. -/
inductive Ends (F : State → FaultRecord → Prop) (s : State) : State → Prop
  | goesOn {t : State} (h : Sends s t) : Ends F s t
  | faults {u : State} {r : FaultRecord} (h : Sends s u) (hr : F u r) : Ends F s (faultedState r u)
  | halts {u : State} (h : Sends s u) :
      Ends F s { u with status := .halted, trace := u.trace ++ [.shutdown], cpu := .closed, store := .terminated }

/-- The same of the outcome of a step; only a CORE that is not between requests can be stuck (20_memory.md R59). -/
def OutEnds (F : State → FaultRecord → Prop) (s : State) : Out → Prop
  | .next t => Ends F s t
  | .fault _ => ¬ Ready s
  | .refused _ => ¬ Ready s

/-- The same of a part of a cycle. -/
def ActEnds {α : Type} (F : State → FaultRecord → Prop) (s : State) : Act α → Prop
  | .ok _ t => Sends s t
  | .stop o => OutEnds F s o

variable {F G : State → FaultRecord → Prop} {s t : State}

theorem Ends.mono (h : Ends F s t) (hFG : ∀ u r, t = faultedState r u → F u r → G u r) : Ends G s t := by
  cases h with
  | goesOn h => exact .goesOn h
  | faults h hr => exact .faults h (hFG _ _ rfl hr)
  | halts h => exact .halts h

theorem Ends.of_sends {u : State} (h : Ends F u t) (hs : Sends s u) : Ends F s t := by
  cases h with
  | goesOn h => exact .goesOn (hs.trans h)
  | faults h hr => exact .faults (hs.trans h) hr
  | halts h => exact .halts (hs.trans h)

theorem OutEnds.of_sends {u : State} {o : Out} (h : OutEnds F u o) (hs : Sends s u) : OutEnds F s o := by
  cases o with
  | next t => exact Ends.of_sends h hs
  | fault f => exact fun hr => h (hs.ready hr)
  | refused f => exact fun hr => h (hs.ready hr)

theorem ActEnds.of_sends {α : Type} {u : State} {m : Act α} (h : ActEnds F u m) (hs : Sends s u) : ActEnds F s m := by
  cases m with
  | ok a t => exact hs.trans h
  | stop o => exact OutEnds.of_sends h hs

/-- A part and then the rest of the cycle. -/
theorem ends_finish {α : Type} {m : Act α} {k : α → State → Out} (hm : ActEnds F s m)
    (hk : ∀ a u, OutEnds F u (k a u)) : OutEnds F s (m.finish k) := by
  cases m with
  | ok a u => exact (hk a u).of_sends hm
  | stop o => exact hm

theorem outEnds_next (h : Sends s t) : OutEnds F s (.next t) := Ends.goesOn h

/-- From a state between requests there is always a next state. -/
theorem OutEnds.exists_next {o : Out} (h : OutEnds F s o) (hr : Ready s) : ∃ t, o = .next t := by
  cases o with
  | next t => exact ⟨t, rfl⟩
  | fault f => exact absurd hr h
  | refused f => exact absurd hr h

theorem outEnds_fatal {r : FaultRecord} (hr : F s r) : OutEnds F s (fatal r s) := by
  rcases fatal_cases r s with ⟨-, e⟩ | e
  · rw [e]; exact Ends.faults (Sends.refl s) hr
  · rw [e]; exact fun hready => by rw [fatal_idle r hready.1] at e; cases e

/-! ## The faults of the operations (60_exceptions.md R238) -/

/-- Code 3. -/
def RangeFault (u : State) (r : FaultRecord) : Prop := ∃ a, ¬ Cell a ∧ r = .outOfRange a u.mode u.pc

/-- Code 1. -/
def ViolationFault (u : State) (r : FaultRecord) : Prop := ∃ a, Violation u a ∧ r = .memoryViolation a .user u.pc

/-- What a checked load can raise (20_memory.md R44). -/
def LoadFault (u : State) (r : FaultRecord) : Prop := ViolationFault u r ∨ RangeFault u r

/-- What a store, a push or a call can raise (20_memory.md R45, decision D7). -/
def StoreFault (u : State) (r : FaultRecord) : Prop :=
  (u.params.checkStores = true ∧ ViolationFault u r) ∨ RangeFault u r

/-- What an instruction can raise. -/
def raises (i : Instr) (u : State) (r : FaultRecord) : Prop :=
  match i with
  | .loadAddr _ | .loadInd _ | .loadIdxX _ | .loadIdxY _ | .loadSpX => LoadFault u r
  | .store _ | .push | .call _ => StoreFault u r
  | .pop | .ret | .iret => RangeFault u r
  | .put p => p.toInt ≠ 1 ∧ p.toInt ≠ 2 ∧ r = .illegalPort p u.pc
  | .int => u.mode = .kernel ∧ r = .kernelSyscall u.pc
  | _ => False

/-- A record that the instruction in IR can raise agrees with the state (60_exceptions.md R238). -/
theorem recordFits_of_raises {i : Instr} {u : State} {r : FaultRecord} (hir : u.ir = opcodeWord i)
    (h : raises i u r) : RecordFits u r := by
  have hrange : RangeFault u r → RecordFits u r := by rintro ⟨a, ha, rfl⟩; exact ⟨ha, rfl, rfl⟩
  have hviolation : ViolationFault u r → RecordFits u r := by rintro ⟨a, ha, rfl⟩; exact ⟨rfl, ha, rfl⟩
  cases i with
  | loadAddr | loadInd | loadIdxX | loadIdxY | loadSpX => exact h.elim hviolation hrange
  | store | push | call => exact h.elim (fun ⟨_, hv⟩ => hviolation hv) hrange
  | pop | ret | iret => exact hrange h
  | put p => obtain ⟨h₁, h₂, rfl⟩ := h; exact ⟨h₁, h₂, hir, rfl⟩
  | int => obtain ⟨hm, rfl⟩ := h; exact ⟨hm, hir, rfl⟩
  | _ => exact h.elim

/-! ## How the operations end -/

theorem memRead_ends (a : Word) (hF : ∀ r, RangeFault s r → F s r) : ActEnds F s (memRead a s) := by
  rcases memRead_cases a s with ⟨ha, -, e⟩ | ⟨ha, -, e⟩ | ⟨f, e⟩
  · rw [e]; exact sends_read ha
  · rw [e]; exact Ends.faults (Sends.refl s) (hF _ ⟨a, (not_inRange_iff a).mp ha, rfl⟩)
  · rw [e]
    intro hr
    cases ha : inRange a with
    | true => rw [memRead_ready hr ha] at e; cases e
    | false => rw [memRead_outOfRange hr.1 ha] at e; cases e

theorem checkedRead_ends (a : Word) : ActEnds LoadFault s (checkedRead a s) := by
  unfold checkedRead
  split
  · next hv =>
    have hviolation : Violation s a := (violates_iff s a).mp hv
    exact outEnds_fatal (.inl ⟨a, hviolation, by rw [hviolation.1]⟩)
  · exact memRead_ends a fun _ => .inr

theorem memWrite_ends (a v : Word) : ActEnds StoreFault s (memWrite a v s) := by
  rcases memWrite_cases a v s with ⟨ha, -, m, st, e, hm⟩ | ⟨ha, -, e⟩ | ⟨f, e⟩
  · rw [e]; exact sends_write ha hm
  · rw [e]; exact Ends.faults (Sends.refl s) (.inr ⟨a, (not_inRange_iff a).mp ha, rfl⟩)
  · rw [e]
    intro hr
    cases ha : inRange a with
    | true => rw [memWrite_ready hr ha] at e; cases e
    | false => rw [memWrite_outOfRange hr.1 ha] at e; cases e

theorem storeWord_ends (a v : Word) : ActEnds StoreFault s (storeWord a v s) := by
  unfold storeWord
  split
  · next hv =>
    obtain ⟨hopt, hv⟩ := Bool.and_eq_true_iff.mp hv
    have hviolation : Violation s a := (violates_iff s a).mp hv
    exact outEnds_fatal (.inl ⟨hopt, a, hviolation, by rw [hviolation.1]⟩)
  · exact memWrite_ends a v

theorem push_ends (v : Word) : ActEnds StoreFault s (push v s) := by
  have h := storeWord_ends (s := s) s.sp v
  unfold push
  cases e : storeWord s.sp v s with
  | ok a u => rw [e] at h; exact h
  | stop o => rw [e] at h; exact h

theorem pop_ends : ActEnds RangeFault s (pop s) :=
  (memRead_ends (s := { s with sp := wrap (s.sp.toInt + 1) }) _ fun _ => id).of_sends (Sends.refl s)

theorem loadChecked_ends (a : Word) : OutEnds LoadFault s (loadChecked a s) :=
  ends_finish (checkedRead_ends a) fun _ u => outEnds_next (Sends.refl u)

theorem trapEntry_ends (vector savedPc : Word) : OutEnds F s (trapEntry vector savedPc s) := by
  rcases trapEntry_cases vector savedPc s with ⟨hc, m, st, e, hm⟩ | e
  · rw [e]
    refine outEnds_next ⟨rfl, rfl, [.write 1999 s.sp, .write 1998 savedPc], rfl, ?inRange, fun hr => ?memory⟩
    case inRange =>
      have hcells : Cell 1999 ∧ Cell 1998 := by decide
      simpa [Request.InRange] using hcells
    case memory =>
      obtain ⟨-, rfl, rfl⟩ | ⟨hns, -, -⟩ := hm
      · exact ⟨⟨hr.1, rfl⟩, rfl⟩
      · exact absurd hr.2 hns
  · rw [e]
    exact fun hr => by rw [trapEntry_ready hr] at e; cases e

theorem trapReturn_ends : OutEnds RangeFault s (trapReturn s) :=
  ends_finish ((pop_ends (s := { s with mode := .user })).of_sends (Sends.refl s)) fun newPc u =>
    ends_finish ((pop_ends (s := { u with pc := newPc })).of_sends (Sends.refl u)) fun _ v => outEnds_next (Sends.refl v)

/-! ## How an instruction ends -/

theorem execPut_ends (p : Word) : OutEnds (raises (.put p)) s (execPut p s) := by
  unfold execPut
  split
  · exact outEnds_next (Sends.refl s)
  · split
    · exact outEnds_next (Sends.refl s)
    · next h₁ h₂ => exact outEnds_fatal ⟨h₁, h₂, rfl⟩

theorem execInt_ends : OutEnds (raises .int) s (execInt s) := by
  unfold execInt
  split
  · next hm => exact outEnds_fatal ⟨hm, rfl⟩
  · exact trapEntry_ends _ _

/-- The shutdown transaction needs only an idle CPU FSM (20_memory.md R53). -/
theorem execEnd_of_idle {s : State} (hc : s.cpu = .idle) : execEnd s = .next
    { s with status := .halted, trace := s.trace ++ [.shutdown], cpu := .closed, store := .terminated } := by
  rcases execEnd_cases s with ⟨-, e⟩ | e
  · exact e
  · rw [execEnd, sendShutdown, hc] at e
    cases e

theorem execEnd_ends : OutEnds F s (execEnd s) := by
  rcases execEnd_cases s with ⟨-, e⟩ | e
  · rw [e]; exact Ends.halts (Sends.refl s)
  · rw [e]
    exact fun hr => by rw [execEnd_of_idle hr.1] at e; cases e

theorem exec_ends (i : Instr) (s : State) : OutEnds (raises i) s (exec i s) := by
  cases i with
  | loadAddr | loadIdxX | loadIdxY | loadSpX => exact loadChecked_ends _
  | loadInd a => exact ends_finish (checkedRead_ends a) fun _ _ => loadChecked_ends _
  | store a => exact ends_finish (storeWord_ends a s.ac) fun _ u => outEnds_next (Sends.refl u)
  | push | call => exact ends_finish (push_ends _) fun _ u => outEnds_next (Sends.refl u)
  | pop | ret => exact ends_finish pop_ends fun _ u => outEnds_next (Sends.refl u)
  | put p => exact execPut_ends p
  | int => exact execInt_ends
  | iret => exact trapReturn_ends
  | endRun => exact execEnd_ends
  | loadValue | get | addX | addY | subX | subY | incX | decX | jump => exact outEnds_next (Sends.refl s)
  | jumpIfEqual | jumpIfNotEqual =>
    simp only [exec, execJumpIfEqual, execJumpIfNotEqual]
    split <;> exact outEnds_next (Sends.refl s)
  | copyToX | copyFromX | copyToY | copyFromY | copyToSp | copyFromSp =>
    simp only [exec, execCopyToX, execCopyFromX, execCopyToY, execCopyFromY, execCopyToSp, execCopyFromSp]
    split <;> exact outEnds_next (Sends.refl s)

end Sys2Proof.Machine
end

section
/-! O7 to O10 (30_encoding.md R72 to R76, 10_state.md R32): the cycle once the admission check has answered NONE, by what
the fetch and the opcode table give; and the states in which there is no cycle. -/

namespace Sys2Proof.Machine

open Sys2Proof Sys2Proof.Config

/-! ## The words at PC against the opcode table -/

theorem decodeOpcode_of_decode_singleton {w : Word} {i : Instr} (h : decode [w] = .ok (i, [])) :
    decodeOpcode w.toNat = some (.one i) := by
  match hdec : decodeOpcode w.toNat with
  | none => rw [decode_cons_of_none hdec] at h; cases h
  | some (.one j) => rw [decode_cons_of_one hdec] at h; cases h; rfl
  | some (.two f) => rw [decode_singleton_of_two hdec] at h; cases h

theorem decodeOpcode_of_decode_pair {w v : Word} {i : Instr} (h : decode [w, v] = .ok (i, [])) :
    ∃ f, decodeOpcode w.toNat = some (.two f) ∧ f v = i := by
  match hdec : decodeOpcode w.toNat with
  | none => rw [decode_cons_of_none hdec] at h; cases h
  | some (.one j) => rw [decode_cons_of_one hdec] at h; cases h
  | some (.two f) => rw [decode_cons_cons_of_two hdec] at h; cases h; exact ⟨f, rfl, rfl⟩

/-! ## The cycles that end before execution -/

theorem step_of_not_cell {s t : State} (hs : Runs s) (hadm : admissionCheck s = .ok false t) (hpc : ¬ Cell t.pc) :
    step s = .next (faultedState (.outOfRange t.pc t.mode t.pc) t) := by
  rw [step_eq_fetchInstr_exec hs hadm, fetchInstr, fetchOpcode,
    memRead_outOfRange (ready_of_none hadm hs.2.2).1 ((not_inRange_iff _).mpr hpc), Act.bind_stop, Act.bind_stop,
    Act.finish_stop]

/-- The count is tested after the read (60_exceptions.md R241). -/
theorem step_of_cntMax_le {s t : State} (hs : Runs s) (hadm : admissionCheck s = .ok false t) (hpc : Cell t.pc)
    (hn : cntMax ≤ t.instrCount) :
    step s = .next (faultedState (.counterOverflow t.pc) { t with trace := t.trace ++ [.read t.pc] }) := by
  have hr : Ready t := ready_of_none hadm hs.2.2
  rw [step_eq_fetchInstr_exec hs hadm, fetchInstr, fetchOpcode, memRead_ready hr ((inRange_iff_cell _).mpr hpc),
    Act.bind_ok, if_pos hn, raise, fatal_idle _ (by exact hr.1), Act.bind_stop, Act.finish_stop]

theorem step_of_decodeOpcode_eq_none {s t : State} (hs : Runs s) (hadm : admissionCheck s = .ok false t)
    (hpc : Cell t.pc) (hn : t.instrCount < cntMax) (hdec : decodeOpcode (t.mem.read t.pc.toNat).toNat = none) :
    step s = .next (faultedState (.illegalInstruction (t.mem.read t.pc.toNat) t.pc)
      { t with
        ir := t.mem.read t.pc.toNat
        instrCount := t.instrCount + 1
        trace := t.trace ++ [.read t.pc] }) := by
  have hr : Ready t := ready_of_none hadm hs.2.2
  rw [step_eq_fetchInstr_exec hs hadm, fetchInstr_eq_decodeIr hr hpc hn rfl]
  simp only [decodeIr, hdec]
  rw [raise, fatal_idle _ (by exact hr.1), Act.finish_stop]

/-! ## The obligations -/

/-- Settles O7: the opcode word's row of the table, alone or with the operand read behind it. -/
theorem stepRunsTheDecodedInstruction : Obligations.StepRunsTheDecodedInstruction := by
  unfold Obligations.StepRunsTheDecodedInstruction
  refine fun s t i hs hadm hpc hn => ⟨fun hdec => ?oneWord, fun v hdec hop hv => ?twoWords⟩
  case oneWord =>
    exact runsAlone_of_decodeOpcode (decodeOpcode_of_decode_singleton hdec) s t hs hadm hpc hn rfl
  case twoWords =>
    obtain ⟨f, hf, rfl⟩ := decodeOpcode_of_decode_pair hdec
    subst hv
    exact (runsWithOperand_of_decodeOpcode hf s t hs hadm hpc hn rfl).1 hop

/-- Settles O8: the faulting read, and the count tested after it. -/
theorem faultingFetchKeepsCountAndIr : Obligations.FaultingFetchKeepsCountAndIr := by
  unfold Obligations.FaultingFetchKeepsCountAndIr
  exact fun s t hs hadm => ⟨step_of_not_cell hs hadm, fun hpc hn => step_of_cntMax_le hs hadm hpc hn.ge⟩

/-- Settles O9: a word with no row in the opcode map. -/
theorem otherOpcodeWordRaisesIllegalInstruction : Obligations.OtherOpcodeWordRaisesIllegalInstruction := by
  unfold Obligations.OtherOpcodeWordRaisesIllegalInstruction
  exact fun s t hs hadm hpc hn hw =>
    step_of_decodeOpcode_eq_none hs hadm hpc hn ((decodeOpcode_toNat_eq_none_iff _).mpr hw)

/-- Settles O10: by the run status. -/
theorem endedRunTakesNoCycle : Obligations.EndedRunTakesNoCycle := by
  unfold Obligations.EndedRunTakesNoCycle
  refine fun s => ⟨fun h => ?halted, fun r h => ?faulted, fun h => ?running⟩
  case halted => simp [step, State.exitStatus, h]
  case faulted => simp [step, State.exitStatus, h]
  case running => simp +contextual [step, State.exitStatus, h]

end Sys2Proof.Machine
end

section
/-! O51 to O54 and O56 to O58: what every step keeps. A whole step ends as its parts do, with a record that fits; the
invariant, the replay of the trace and progress follow from how it ends. -/

namespace Sys2Proof.Machine

open Sys2Proof Sys2Proof.Config

/-! ## How a step ends -/

/-- A record agrees with the state, where the counters are in range (10_state.md R28, R29). -/
def FitsInRange (u : State) (r : FaultRecord) : Prop :=
  u.instrCount ≤ cntMax → u.pending ≤ cntMax → RecordFits u r

theorem sends_of_none {s t : State} (h : admissionCheck s = .ok false t) : Sends s t := by
  obtain ⟨-, -, -, -, -, -, -, -, hmem, -, htrace, hstatus, hcpu, hstore, hparams, -⟩ := admissionCheck_none h
  exact ⟨hstatus, hparams, [], by simp [htrace], by simp, fun hr => ⟨⟨hcpu.trans hr.1, hstore.trans hr.2⟩, hmem⟩⟩

theorem sends_of_enter {s t : State} (h : admissionCheck s = .ok true t) : Sends s t := by
  obtain ⟨-, -, -, -, -, -, -, -, -, -, hmem, -, htrace, hstatus, hcpu, hstore, hparams, -⟩ := admissionCheck_enter h
  exact ⟨hstatus, hparams, [], by simp [htrace], by simp, fun hr => ⟨⟨hcpu.trans hr.1, hstore.trans hr.2⟩, hmem⟩⟩

theorem sends_fetchOpcode {s : State} (w : Word) (hpc : Cell s.pc) :
    Sends s { s with ir := w, instrCount := s.instrCount + 1, trace := s.trace ++ [.read s.pc] } :=
  sends_read ((inRange_iff_cell _).mpr hpc)

theorem sends_fetchOperand {s : State} {a : Word} (ha : Cell a) :
    Sends s { s with pc := a, trace := s.trace ++ [.read a] } :=
  sends_read ((inRange_iff_cell a).mpr ha)

/-- An instruction whose opcode word is in IR ends with a record that fits. -/
theorem exec_ends_fitsInRange {i : Instr} {s t : State} (h : exec i s = .next t)
    (hir : (opcodeWord i).toNat = s.ir.toNat) : Ends FitsInRange s t := by
  have hends : OutEnds (raises i) s (exec i s) := exec_ends i s
  rw [h] at hends
  refine Ends.mono hends fun u r ht hr _ _ => recordFits_of_raises ?_ hr
  have hu : (faultedState r u).ir = s.ir := ht ▸ exec_ir h
  exact hu.trans (BitVec.eq_of_toNat_eq hir).symm

theorem step_ends {s t : State} (h : step s = .next t) : Ends FitsInRange s t := by
  obtain ⟨-, -, ⟨-, hfull, -, -, rfl⟩ | ⟨s₁, hadm, hentry⟩ | ⟨s₁, hadm, hfetch⟩⟩ := step_next h
  · exact .faults (Sends.refl s) fun _ hle => ⟨.inr (Nat.le_antisymm hle hfull), rfl⟩
  · have hends : OutEnds FitsInRange s₁ (timerEntry s₁) := trapEntry_ends _ _
    rw [hentry] at hends
    exact Ends.of_sends hends (sends_of_enter hadm)
  · refine Ends.of_sends ?_ (sends_of_none hadm)
    obtain ⟨hpc, -, -, rfl⟩ | ⟨-, hpc, -, hfull, rfl⟩ | ⟨s₂, -, hpc, -, -, rfl, hexec⟩ := hfetch
    · exact .faults (Sends.refl s₁) fun _ _ => ⟨hpc, rfl, rfl⟩
    · exact .faults (sends_read ((inRange_iff_cell _).mpr hpc)) fun hle _ => ⟨.inl (Nat.le_antisymm hle hfull), rfl⟩
    · refine Ends.of_sends ?_ (sends_fetchOpcode (s₁.mem.read s₁.pc.toNat) hpc)
      obtain ⟨hdec, rfl⟩ | ⟨i, hdec, hrun⟩ | ⟨f, -, hop, rfl⟩ | ⟨f, hdec, hop, hrun⟩ := hexec
      · exact .faults (Sends.refl _) fun _ _ => ⟨hdec, rfl, rfl⟩
      · exact (exec_ends_fitsInRange hrun (decodeOpcode_one hdec).2 :)
      · exact .faults (Sends.refl _) fun _ _ => ⟨hop, rfl, rfl⟩
      · have hends := exec_ends_fitsInRange hrun (decodeOpcode_two hdec _).2
        exact hends.of_sends (sends_fetchOperand hop)

/-! ## The counters after a step -/

/-- A fetch that completes reads the cell at PC, and found room to count it (30_encoding.md R73). -/
theorem fetchOpcode_ok {s t : State} {w : Word} (h : fetchOpcode s = .ok w t) :
    w = s.mem.read s.pc.toNat ∧ s.instrCount < cntMax := by
  rcases memRead_cases s.pc s with ⟨-, -, e⟩ | ⟨-, -, e⟩ | ⟨f, e⟩ <;> rw [fetchOpcode, e] at h
  · rw [Act.bind_ok] at h
    split at h
    · cases h
    · next hn => cases h; exact ⟨rfl, Nat.lt_of_not_le hn⟩
  · cases h
  · cases h

/-- Settles O56: the execution of an instruction changes neither the count nor IR, so both are what the fetch left. -/
theorem countRisesExactlyWithEachFetch : Obligations.CountRisesExactlyWithEachFetch := by
  unfold Obligations.CountRisesExactlyWithEachFetch
  intro s t h
  obtain ⟨-, -, ⟨-, -, hadm, -, rfl⟩ | ⟨s₁, hadm, hentry⟩ | ⟨s₁, hadm, hfetch⟩⟩ := step_next h
  · exact .inr ⟨by simp [hadm], rfl, rfl⟩
  · obtain ⟨-, -, -, -, hir, -, -, -, -, hcount, -⟩ := admissionCheck_enter hadm
    have hentered := trapEntered_of_trapEntry hentry
    exact .inr ⟨by simp [hadm], hentered.instrCount.trans hcount, hentered.ir.trans hir⟩
  · obtain ⟨hpc, -, hir, -, -, -, -, hcount, hmem, -⟩ := admissionCheck_none hadm
    obtain ⟨-, -, ⟨o, hstop⟩, rfl⟩ | ⟨-, -, ⟨o, hstop⟩, -, rfl⟩ | ⟨s₂, -, -, -, hok, hs₂, hexec⟩ := hfetch
    · exact .inr ⟨by simp [hadm, hstop], hcount, hir⟩
    · exact .inr ⟨by simp [hadm, hstop], hcount, hir⟩
    · have hkept : t.instrCount = s₂.instrCount ∧ t.ir = s₂.ir := by
        obtain ⟨-, rfl⟩ | ⟨i, -, hrun⟩ | ⟨f, -, -, rfl⟩ | ⟨f, -, -, hrun⟩ := hexec
        · exact ⟨rfl, rfl⟩
        · exact ⟨exec_instrCount hrun, exec_ir hrun⟩
        · exact ⟨rfl, rfl⟩
        · exact ⟨(exec_instrCount hrun :), (exec_ir hrun :)⟩
      subst hs₂
      exact .inl ⟨s₁, _, _, hadm, hok, hkept.1.trans (congrArg (· + 1) hcount), hkept.2, by rw [hmem, hpc]⟩

theorem step_instrCount_le {s t : State} (h : step s = .next t) (hs : s.instrCount ≤ cntMax) :
    t.instrCount ≤ cntMax := by
  obtain ⟨s₁, w, s₂, hadm, hfetch, hcount, -⟩ | ⟨-, hcount, -⟩ := countRisesExactlyWithEachFetch s t h
  · obtain ⟨-, -, -, -, -, -, -, hcount₁, -⟩ := admissionCheck_none hadm
    have hlt : s₁.instrCount < cntMax := (fetchOpcode_ok hfetch).2
    omega
  · exact hcount.trans_le hs

theorem admissionCheck_none_pending_le {s t : State} (h : admissionCheck s = .ok false t) (hs : s.pending ≤ cntMax) :
    t.pending ≤ cntMax := by
  rcases admissionCheck_cases s with ⟨u, hu, hcases⟩ | ⟨u, hu, -⟩ | ⟨hu, -⟩ <;> rw [hu] at h <;> cases h
  obtain ⟨rfl, -⟩ | ⟨rfl, -⟩ | ⟨-, -, hlt, rfl⟩ := hcases
  · exact hs
  · exact hs
  · rw [timerServed_pending]; exact hlt

/-- After an admission check that answers NONE, no part of the cycle touches the count of pending interrupts. -/
theorem step_pending_of_none {s s₁ t : State} (h : step s = .next t) (hadm : admissionCheck s = .ok false s₁) :
    t.pending = s₁.pending := by
  obtain ⟨-, -, ⟨-, -, hstop, -⟩ | ⟨s₂, henter, -⟩ | ⟨s₂, hnone, hfetch⟩⟩ := step_next h
  · rw [hadm] at hstop; cases hstop
  · rw [hadm] at henter; cases henter
  · rw [hadm] at hnone
    cases hnone
    obtain ⟨-, -, -, rfl⟩ | ⟨-, -, -, -, rfl⟩ | ⟨s₂, -, -, -, -, rfl, hexec⟩ := hfetch
    · rfl
    · rfl
    · obtain ⟨-, rfl⟩ | ⟨i, -, hrun⟩ | ⟨f, -, -, rfl⟩ | ⟨f, -, -, hrun⟩ := hexec
      · rfl
      · exact (exec_pending hrun :)
      · rfl
      · exact (exec_pending hrun :)

theorem step_pending_le {s t : State} (h : step s = .next t) (hs : s.pending ≤ cntMax) : t.pending ≤ cntMax := by
  obtain ⟨-, -, ⟨-, -, -, -, rfl⟩ | ⟨s₁, hadm, hentry⟩ | ⟨s₁, hadm, -⟩⟩ := step_next h
  · exact hs
  · obtain ⟨-, hpending, -⟩ := admissionCheck_enter hadm
    obtain ⟨-, -, -, -, -, -, -, -, -, -, hkept, -⟩ := trapEntry_keptOutside hentry
    omega
  · exact (step_pending_of_none h hadm).trans_le (admissionCheck_none_pending_le hadm hs)

/-! ## The invariant -/

theorem replay_wf {m : Mem} {sent : List Request} (hm : m.Wf) (hin : ∀ r ∈ sent, r.InRange) : (replay m sent).Wf := by
  induction sent generalizing m with
  | nil => exact hm
  | cons r rest ih =>
    have hrest : ∀ r ∈ rest, r.InRange := fun r hr => hin r (List.mem_cons_of_mem _ hr)
    cases r with
    | read a => exact ih hm hrest
    | shutdown => exact ih hm hrest
    | write a v =>
      have ha : inRange a = true := (inRange_iff_cell a).mpr (hin _ List.mem_cons_self)
      exact ih (Mem.write_wf v hm ((inRange_iff a).mp ha)) hrest

/-- While the CORE goes on, the invariant is kept by what it sends. -/
theorem Inv.of_sends {s t : State} (hs : Inv s) (hrun : s.status = .running) (h : Sends s t)
    (hcount : t.instrCount ≤ cntMax) (hpending : t.pending ≤ cntMax) : Inv t := by
  obtain ⟨hready, hnone⟩ := hs.whileRunning hrun
  obtain ⟨hstatus, -, sent, htrace, hin, hmem⟩ := h
  obtain ⟨hready', hmem⟩ := hmem hready
  have hrun' : t.status = .running := hstatus.trans hrun
  constructor
  case memWf => rw [hmem]; exact replay_wf hs.memWf fun r hr => (hin r hr).1
  case instrCountLe => exact hcount
  case pendingLe => exact hpending
  case whileRunning =>
    intro _
    refine ⟨hready', fun hsent => ?_⟩
    rw [htrace, List.mem_append] at hsent
    exact hsent.elim hnone fun hr => (hin _ hr).2 rfl
  case afterEnd => exact fun hend => absurd hrun' hend
  case traceInRange =>
    rw [htrace]
    exact fun r hr => (List.mem_append.mp hr).elim (hs.traceInRange r) fun hr => (hin r hr).1
  case recordFits => intro r hr; rw [hrun'] at hr; cases hr

theorem traceInRange_append_shutdown {l : List Request} (h : ∀ r ∈ l, r.InRange) :
    ∀ r ∈ l ++ [.shutdown], r.InRange := by
  intro r hr
  rcases List.mem_append.mp hr with hr | hr
  · exact h r hr
  · rw [List.mem_singleton.mp hr]; exact trivial

theorem recordFits_faultedState_iff (q r : FaultRecord) (s : State) : RecordFits (faultedState q s) r ↔ RecordFits s r := by
  cases r <;> rfl

/-- The fatal sequence keeps the invariant when the record fits (60_exceptions.md R240). -/
theorem Inv.faultedState {s : State} {r : FaultRecord} (hs : Inv s) (hrun : s.status = .running)
    (hr : RecordFits s r) : Inv (faultedState r s) where
  memWf := hs.memWf
  instrCountLe := hs.instrCountLe
  pendingLe := hs.pendingLe
  whileRunning := fun h => by cases h
  afterEnd := fun _ => ⟨rfl, rfl, s.trace, rfl, (hs.whileRunning hrun).2⟩
  traceInRange := traceInRange_append_shutdown hs.traceInRange
  recordFits := fun q hq => by cases hq; exact (recordFits_faultedState_iff r r s).mpr hr

/-- So does the end of the run by opcode 50 (46_system.md R192). -/
theorem Inv.halted {s : State} (hs : Inv s) (hrun : s.status = .running) :
    Inv { s with status := .halted, trace := s.trace ++ [.shutdown], cpu := .closed, store := .terminated } where
  memWf := hs.memWf
  instrCountLe := hs.instrCountLe
  pendingLe := hs.pendingLe
  whileRunning := fun h => by cases h
  afterEnd := fun _ => ⟨rfl, rfl, s.trace, rfl, (hs.whileRunning hrun).2⟩
  traceInRange := traceInRange_append_shutdown hs.traceInRange
  recordFits := fun q hq => by cases hq

theorem Inv.of_ends {s t : State} (hs : Inv s) (hrun : s.status = .running) (h : Ends FitsInRange s t)
    (hcount : t.instrCount ≤ cntMax) (hpending : t.pending ≤ cntMax) : Inv t := by
  cases h with
  | goesOn h => exact hs.of_sends hrun h hcount hpending
  | faults h hr => exact (hs.of_sends hrun h hcount hpending).faultedState (h.1.trans hrun) (hr hcount hpending)
  | halts h => exact (hs.of_sends hrun h hcount hpending).halted (h.1.trans hrun)

theorem inv_boot (l : Launch) (hl : l.image.Wf) : Inv (State.boot l) where
  memWf := hl
  instrCountLe := Nat.zero_le _
  pendingLe := Nat.zero_le _
  whileRunning := fun _ => ⟨⟨rfl, rfl⟩, List.not_mem_nil⟩
  afterEnd := fun h => absurd rfl h
  traceInRange := fun _ hr => absurd hr List.not_mem_nil
  recordFits := fun _ hr => by cases hr

/-- Settles O51: by the tabled values of reset; the empty image is in canonical form. -/
theorem invariantHoldsAfterReset : Obligations.InvariantHoldsAfterReset := by
  unfold Obligations.InvariantHoldsAfterReset
  exact ⟨inv_boot, inv_boot defaultLaunch ⟨List.Pairwise.nil, fun _ hp => absurd hp List.not_mem_nil⟩⟩

/-- Settles O52: a step ends as `step_ends` says, with both counters in range. -/
theorem everyStepKeepsTheInvariant : Obligations.EveryStepKeepsTheInvariant := by
  unfold Obligations.EveryStepKeepsTheInvariant
  exact fun s t hs h => hs.of_ends (step_next h).1 (step_ends h) (step_instrCount_le h hs.instrCountLe)
    (step_pending_le h hs.pendingLe)

/-! ## The replay of the trace -/

theorem Sends.mem_eq_replay {mem0 : Mem} {s t : State} (h : Sends s t) (hr : Ready s)
    (hs : s.mem = replay mem0 s.trace) : t.mem = replay mem0 t.trace := by
  obtain ⟨-, -, sent, htrace, -, hmem⟩ := h
  rw [(hmem hr).2, hs, htrace, replay_append]

theorem replay_append_shutdown (m : Mem) (l : List Request) : replay m (l ++ [.shutdown]) = replay m l :=
  replay_append m l [.shutdown]

theorem Ends.mem_eq_replay {F : State → FaultRecord → Prop} {mem0 : Mem} {s t : State} (h : Ends F s t) (hr : Ready s)
    (hs : s.mem = replay mem0 s.trace) : t.mem = replay mem0 t.trace := by
  cases h with
  | goesOn h => exact h.mem_eq_replay hr hs
  | faults h _ => exact (h.mem_eq_replay hr hs).trans (replay_append_shutdown _ _).symm
  | halts h => exact (h.mem_eq_replay hr hs).trans (replay_append_shutdown _ _).symm

/-- Settles O53: what a step sends is replayed on the memory before it; a Shutdown writes nothing. -/
theorem memoryIsTheReplayOfTheTrace : Obligations.MemoryIsTheReplayOfTheTrace := by
  unfold Obligations.MemoryIsTheReplayOfTheTrace
  exact ⟨fun _ => rfl, fun mem0 s t hs hmem h =>
    (step_ends h).mem_eq_replay (hs.whileRunning (step_next h).1).1 hmem⟩

/-! ## What is sent, and the parameters -/

theorem Ends.appends_inRange {F : State → FaultRecord → Prop} {s t : State} (h : Ends F s t) :
    t.params = s.params ∧ ∃ sent, t.trace = s.trace ++ sent ∧ ∀ r ∈ sent, r.InRange := by
  cases h with
  | goesOn h =>
    obtain ⟨-, hparams, sent, htrace, hin, -⟩ := h
    exact ⟨hparams, sent, htrace, fun r hr => (hin r hr).1⟩
  | faults h _ =>
    obtain ⟨-, hparams, sent, htrace, hin, -⟩ := h
    exact ⟨hparams, sent ++ [.shutdown], by rw [faultedState_trace, htrace, List.append_assoc],
      traceInRange_append_shutdown fun r hr => (hin r hr).1⟩
  | halts h =>
    obtain ⟨-, hparams, sent, htrace, hin, -⟩ := h
    exact ⟨hparams, sent ++ [.shutdown], by rw [htrace, List.append_assoc],
      traceInRange_append_shutdown fun r hr => (hin r hr).1⟩

/-- Settles O58: the requests sent name cells, and a Shutdown has no address. -/
theorem stepOnlyAppendsInRangeRequests : Obligations.StepOnlyAppendsInRangeRequests := by
  unfold Obligations.StepOnlyAppendsInRangeRequests
  exact fun _ _ h => (step_ends h).appends_inRange

/-! ## Progress -/

theorem exists_exec_eq_next (i : Instr) {s : State} (hr : Ready s) : ∃ t, exec i s = .next t :=
  (exec_ends i s).exists_next hr

/-- After NONE: the fetch faults, or the word fetched is illegal, or it runs, after its operand read if it has one. -/
theorem exists_step_eq_next_of_none {s s₁ : State} (hs : Runs s) (hadm : admissionCheck s = .ok false s₁) :
    ∃ t, step s = .next t := by
  have hr : Ready s₁ := ready_of_none hadm hs.2.2
  by_cases hpc : Cell s₁.pc
  case neg => exact ⟨_, step_of_not_cell hs hadm hpc⟩
  by_cases hn : s₁.instrCount < cntMax
  case neg => exact ⟨_, step_of_cntMax_le hs hadm hpc (Nat.le_of_not_lt hn)⟩
  match hdec : decodeOpcode (s₁.mem.read s₁.pc.toNat).toNat with
  | none => exact ⟨_, step_of_decodeOpcode_eq_none hs hadm hpc hn hdec⟩
  | some (.one i) =>
    rw [runsAlone_of_decodeOpcode hdec s s₁ hs hadm hpc hn rfl]
    exact exists_exec_eq_next i hr
  | some (.two f) =>
    obtain ⟨hcell, hnot⟩ := runsWithOperand_of_decodeOpcode hdec s s₁ hs hadm hpc hn rfl
    by_cases hop : Cell (wrap (s₁.pc.toInt + 1))
    · rw [hcell hop]
      exact exists_exec_eq_next _ hr
    · exact ⟨_, hnot hop⟩

theorem step_eq_cycle {s : State} (hs : Runs s) : step s = cycle s := by
  obtain ⟨hrun, hok, -⟩ := hs
  simp only [step, hrun, hok, if_true]

/-- A step whose admission check answers ENTER is the timer entry (60_exceptions.md R231). -/
theorem step_of_enter {s s₁ : State} (hs : Runs s) (hadm : admissionCheck s = .ok true s₁) : step s = timerEntry s₁ := by
  simp only [step_eq_cycle hs, cycle, hadm, Act.finish_ok]

theorem step_of_stop {s : State} {o : Out} (hs : Runs s) (hadm : admissionCheck s = .stop o) : step s = o := by
  simp only [step_eq_cycle hs, cycle, hadm, Act.finish_stop]

theorem exists_step_eq_next {s : State} (hs : Runs s) : ∃ t, step s = .next t := by
  rcases admissionCheck_cases s with ⟨s₁, hadm, -⟩ | ⟨s₁, hadm, -⟩ | ⟨hadm, -⟩
  · exact exists_step_eq_next_of_none hs hadm
  · exact ⟨_, (step_of_enter hs hadm).trans (trapEntry_ready ((sends_of_enter hadm).ready hs.2.2))⟩
  · exact ⟨_, (step_of_stop hs hadm).trans (fatal_idle _ hs.2.2.1)⟩

/-- Settles O54: in a running state of the invariant the protocol is between requests. -/
theorem runningMachineIsNeverStuck : Obligations.RunningMachineIsNeverStuck := by
  unfold Obligations.RunningMachineIsNeverStuck
  exact fun s hs hrun hok => exists_step_eq_next ⟨hrun, hok, (hs.whileRunning hrun).1⟩

/-! ## MemoryViolation -/

/-- With CHECK_STORES off only opcodes 2 to 6 can raise MemoryViolation, and they write AC only (20_memory.md R44). -/
theorem loads_of_raises_memoryViolation {i : Instr} {u : State} {a : Word} {m : Mode} {p : Word}
    (hopt : u.params.checkStores = false) (h : raises i u (.memoryViolation a m p)) :
    ViolationFault u (.memoryViolation a m p) ∧ (∀ params, written params i = [.ac]) ∧
      2 ≤ (opcodeWord i).toInt ∧ (opcodeWord i).toInt ≤ 6 := by
  have hrange : ¬ RangeFault u (.memoryViolation a m p) := by rintro ⟨_, -, h⟩; cases h
  cases i with
  | loadAddr | loadInd | loadIdxX | loadIdxY | loadSpX =>
    exact ⟨h.resolve_right hrange, fun _ => rfl, by simp [opcodeWord], by simp [opcodeWord]⟩
  | store | push | call =>
    obtain ⟨hon, -⟩ := h.resolve_right hrange
    rw [hopt] at hon
    cases hon
  | pop | ret | iret => exact absurd h hrange
  | put => obtain ⟨-, -, h⟩ := h; cases h
  | int => obtain ⟨-, h⟩ := h; cases h
  | _ => exact h.elim

/-- The content of O57 for the execution of the instruction in IR. -/
theorem exec_memoryViolation {i : Instr} {s t : State} {a : Word} {m : Mode} {p : Word}
    (h : exec i s = .next t) (hir : (opcodeWord i).toNat = s.ir.toNat) (hrun : s.status = .running)
    (hopt : s.params.checkStores = false) (ht : t.status = .faulted (.memoryViolation a m p)) :
    s.mode = .user ∧ m = .user ∧ 1000 ≤ a.toInt ∧ p = t.pc ∧ 2 ≤ t.ir.toInt ∧ t.ir.toInt ≤ 6 ∧ t.mem = s.mem := by
  have hends : OutEnds (raises i) s (exec i s) := exec_ends i s
  rw [h] at hends
  cases hends with
  | goesOn hsends => rw [hsends.1, hrun] at ht; cases ht
  | halts hsends => cases ht
  | @faults u r hsends hr =>
    cases ht
    obtain ⟨⟨b, hb, hrec⟩, hwritten, hlo, hhi⟩ := loads_of_raises_memoryViolation (hsends.2.1 ▸ hopt) hr
    cases hrec
    have hcode : (faultedState (.memoryViolation a .user u.pc) u).ir = opcodeWord i :=
      (exec_ir h).trans (BitVec.eq_of_toNat_eq hir).symm
    have hmode : u.mode = s.mode := (exec_mode h (by simp [hwritten]) :)
    exact ⟨hmode.symm.trans hb.1, rfl, hb.2, rfl, hcode ▸ hlo, hcode ▸ hhi, exec_mem h (by simp [hwritten])⟩

/-- Settles O57: no part of a step but the execution of its instruction raises MemoryViolation. -/
theorem memoryViolationOnlyFromCheckedUserLoads : Obligations.MemoryViolationOnlyFromCheckedUserLoads := by
  unfold Obligations.MemoryViolationOnlyFromCheckedUserLoads
  intro s t a m p hopt h ht
  obtain ⟨hrun, -, ⟨-, -, -, -, rfl⟩ | ⟨s₁, hadm, hentry⟩ | ⟨s₁, hadm, hfetch⟩⟩ := step_next h
  · cases ht
  · obtain ⟨-, _, _, rfl, -⟩ := timerEntry_next hentry
    have hstatus : s₁.status = .running := (sends_of_enter hadm).1.trans hrun
    simp [hstatus] at ht
  · obtain ⟨-, -, -, -, -, -, hmode, -, hmem, -, -, hstatus, -, -, hparams, -⟩ := admissionCheck_none hadm
    rw [← hmode, ← hmem]
    rw [← hstatus] at hrun
    rw [← hparams] at hopt
    obtain ⟨-, -, -, rfl⟩ | ⟨-, -, -, -, rfl⟩ | ⟨s₂, -, -, -, -, rfl, hexec⟩ := hfetch
    · cases ht
    · cases ht
    · obtain ⟨-, rfl⟩ | ⟨i, hdec, hexec⟩ | ⟨f, -, -, rfl⟩ | ⟨f, hdec, -, hexec⟩ := hexec
      · cases ht
      · exact (exec_memoryViolation hexec (decodeOpcode_one hdec).2 hrun hopt ht :)
      · cases ht
      · exact (exec_memoryViolation hexec (decodeOpcode_two hdec _).2 hrun hopt ht :)

end Sys2Proof.Machine
end

section
/-! O1 to O3 (10_state.md R37, 60_exceptions.md R248, 70_reset_and_hazards.md R266): reset, the launch check, and the
loading of an image, one value after another. -/

namespace Sys2Proof.Machine

open Sys2Proof Sys2Proof.Config

/-- Settles O1: field by field, as `State.boot` lists them. -/
theorem resetHoldsTheTabledValues : Obligations.ResetHoldsTheTabledValues := by
  unfold Obligations.ResetHoldsTheTabledValues
  intro l
  and_intros
  all_goals intros; rfl

/-! ## The launch check -/

theorem startUp_of_lt_one {q : Int} (h : q < 1) (image : Option (List ImageLine)) (l : Launch) :
    startUp q image l = .noRun .configError l.params.exitFail := by
  unfold startUp
  rw [if_pos h]

theorem startUp_none (q : Int) (l : Launch) : startUp q none l = .noRun .configError l.params.exitFail := by
  unfold startUp
  split <;> rfl

theorem startUp_of_malformed (q : Int) {l : Launch} {lines : List ImageLine} (h : loadImage lines 0 l.image = none) :
    startUp q (some lines) l = .noRun .configError l.params.exitFail := by
  unfold startUp
  split
  · rfl
  · simp only [h]

theorem startUp_of_loaded {q : Int} (hq : 1 ≤ q) {l : Launch} {lines : List ImageLine} {m : Mem}
    (h : loadImage lines 0 l.image = some m) :
    startUp q (some lines) l =
      .started (State.boot { l with image := m, params := { l.params with quantum := q.toNat } }) := by
  rw [startUp, if_neg (Int.not_lt.mpr hq)]
  simp only [h]

/-- Settles O2: the launch check's four cases. -/
theorem launchStartsOnlyWithGoodConfiguration : Obligations.LaunchStartsOnlyWithGoodConfiguration := by
  unfold Obligations.LaunchStartsOnlyWithGoodConfiguration
  exact fun q l => ⟨fun h image => startUp_of_lt_one h image l, startUp_none q l, fun _ => startUp_of_malformed q,
    fun hq _ _ => startUp_of_loaded hq⟩

/-! ## The image -/

theorem loadImage_value {n : Nat} (hn : n < memSize) (v : Word) (rest : List ImageLine) (m : Mem) :
    loadImage (.value v :: rest) n m = loadImage rest (n + 1) (m.write n v) := by
  rw [loadImage, if_pos hn]

/-- The value lines of `vs`, each with a comment line behind it, loaded from `n` on. -/
theorem loadImage_values (vs : List Word) (n : Nat) (m : Mem) (hm : m.Wf) (hlen : n + vs.length ≤ 2000) :
    ∃ m', loadImage (vs.map fun v => [ImageLine.value v, ImageLine.comment]).flatten n m = some m' ∧
      (∀ k (h : k < vs.length), m'.read (n + k) = vs[k]) ∧
      ∀ a, a < n ∨ n + vs.length ≤ a → m'.read a = m.read a := by
  induction vs generalizing n m with
  | nil => exact ⟨m, rfl, fun k h => absurd h (Nat.not_lt_zero k), fun _ _ => rfl⟩
  | cons v vs ih =>
    rw [List.length_cons] at hlen
    have hn : n < memSize := by unfold memSize; omega
    obtain ⟨m', hload, hcells, hothers⟩ := ih (n + 1) (m.write n v) (Mem.write_wf v hm hn) (by omega)
    refine ⟨m', (loadImage_value hn v _ m).trans hload, fun k hk => ?cells, fun a ha => ?others⟩
    case cells =>
      cases k with
      | zero => exact (hothers n (.inl n.lt_succ_self)).trans (Mem.read_write_same m n v hm)
      | succ k =>
        rw [← Nat.add_assoc, Nat.add_right_comm]
        exact hcells k (Nat.lt_of_succ_lt_succ hk)
    case others =>
      rw [List.length_cons] at ha
      exact (hothers a (by omega)).trans (Mem.read_write_other m v (by omega))

/-- Settles O3: the marker sets the load address, and the values go to the cells from it on. -/
theorem imageLoadsValuesAtConsecutiveCells : Obligations.ImageLoadsValuesAtConsecutiveCells := by
  unfold Obligations.ImageLoadsValuesAtConsecutiveCells
  exact loadImage_values

end Sys2Proof.Machine
end

section
/-! O26 to O28, O40 and O43 (20_memory.md R45 to R47, R57, R62, R65): stores, pushes and calls in every setting of
CHECK_STORES, and what reads back the word they stored. -/

namespace Sys2Proof.Machine

open Sys2Proof Sys2Proof.Config

/-! ## The stored word, allowed or not (decision D7) -/

/-- CHECK_STORES does not stop a write to `a`. -/
abbrev StoreAllowed (s : State) (a : Word) : Prop := s.params.checkStores = false ∨ ¬ Violation s a

theorem storeWord_of_violation {a : Word} (v : Word) {s : State} (hr : Ready s) (hopt : s.params.checkStores = true)
    (hv : Violation s a) : storeWord a v s = .stop (.next (faultedState (.memoryViolation a .user s.pc) s)) := by
  rw [storeWord, hopt, (violates_iff s a).mpr hv, Bool.true_and, if_pos rfl, raise, fatal_idle _ hr.1, hv.1]

theorem storeWord_of_cell {a : Word} (v : Word) {s : State} (hr : Ready s) (h : StoreAllowed s a) (ha : Cell a) :
    storeWord a v s = .ok () { s with mem := s.mem.write a.toNat v, trace := s.trace ++ [.write a v] } := by
  rw [storeWord_eq_memWrite (h.imp_right (not_violates_iff s a).mpr), memWrite_ready hr ((inRange_iff_cell a).mpr ha)]

theorem storeWord_of_not_cell {a : Word} (v : Word) {s : State} (hr : Ready s) (h : StoreAllowed s a)
    (ha : ¬ Cell a) : storeWord a v s = .stop (.next (faultedState (.outOfRange a s.mode s.pc) s)) := by
  rw [storeWord_eq_memWrite (h.imp_right (not_violates_iff s a).mpr),
    memWrite_outOfRange hr.1 ((not_inRange_iff a).mpr ha)]

theorem push_of_storeWord_stop {v : Word} {s : State} {o : Out} (h : storeWord s.sp v s = .stop o) :
    push v s = .stop o := by
  rw [push, h, Act.bind_stop]

theorem push_of_allowed (v : Word) {s : State} (hr : Ready s) (h : StoreAllowed s s.sp) (ha : Cell s.sp) :
    push v s = .ok ()
      { s with
        mem := s.mem.write s.sp.toNat v
        sp := wrap (s.sp.toInt - 1)
        trace := s.trace ++ [.write s.sp v] } := by
  rw [push, storeWord_of_cell v hr h ha, Act.bind_ok]

/-! ## Store, Push and Call -/

theorem execStore_of_allowed {a : Word} {s : State} (hr : Ready s) (h : StoreAllowed s a) (ha : Cell a) :
    execStore a s = .next
      { s with
        mem := s.mem.write a.toNat s.ac
        pc := wrap (s.pc.toInt + 1)
        trace := s.trace ++ [.write a s.ac] } := by
  rw [execStore, storeWord_of_cell _ hr h ha, Act.finish_ok, advance]

theorem execPush_of_allowed {s : State} (hr : Ready s) (h : StoreAllowed s s.sp) (ha : Cell s.sp) :
    execPush s = .next
      { s with
        mem := s.mem.write s.sp.toNat s.ac
        sp := wrap (s.sp.toInt - 1)
        pc := wrap (s.pc.toInt + 1)
        trace := s.trace ++ [.write s.sp s.ac] } := by
  rw [execPush, push_of_allowed _ hr h ha, Act.finish_ok, advance]

theorem execCall_of_allowed (t : Word) {s : State} (hr : Ready s) (h : StoreAllowed s s.sp) (ha : Cell s.sp) :
    execCall t s = .next
      { s with
        mem := s.mem.write s.sp.toNat (wrap (s.pc.toInt + 1))
        sp := wrap (s.sp.toInt - 1)
        pc := t
        trace := s.trace ++ [.write s.sp (wrap (s.pc.toInt + 1))] } := by
  rw [execCall, push_of_allowed _ hr h ha, Act.finish_ok]

theorem execStore_of_stop {a : Word} {s : State} {o : Out} (h : storeWord a s.ac s = .stop o) : execStore a s = o := by
  rw [execStore, h, Act.finish_stop]

theorem execPush_of_stop {s : State} {o : Out} (h : storeWord s.sp s.ac s = .stop o) : execPush s = o := by
  rw [execPush, push_of_storeWord_stop h, Act.finish_stop]

theorem execCall_of_stop {t : Word} {s : State} {o : Out} (h : storeWord s.sp (wrap (s.pc.toInt + 1)) s = .stop o) :
    execCall t s = o := by
  rw [execCall, push_of_storeWord_stop h, Act.finish_stop]

/-- Settles O26: the stored word with the option on, in the three instructions that store one. -/
theorem checkStoresOptionRaisesMemoryViolation : Obligations.CheckStoresOptionRaisesMemoryViolation := by
  unfold Obligations.CheckStoresOptionRaisesMemoryViolation
  intro s hr hopt
  refine ⟨fun a => ⟨fun hv => ?storeViolation, fun hv ha => ?storeDone, fun hv ha => ?storeOutOfRange⟩,
    fun hv => ?stackViolation, fun hv ha => ?stackDone, fun hv ha => ?stackOutOfRange⟩
  case storeViolation => exact execStore_of_stop (storeWord_of_violation _ hr hopt hv)
  case storeDone => exact execStore_of_allowed hr (.inr hv) ha
  case storeOutOfRange => exact execStore_of_stop (storeWord_of_not_cell _ hr (.inr hv) ha)
  case stackViolation =>
    exact ⟨execPush_of_stop (storeWord_of_violation _ hr hopt hv),
      fun _ => execCall_of_stop (storeWord_of_violation _ hr hopt hv)⟩
  case stackDone => exact ⟨execPush_of_allowed hr (.inr hv) ha, fun t => execCall_of_allowed t hr (.inr hv) ha⟩
  case stackOutOfRange =>
    exact ⟨execPush_of_stop (storeWord_of_not_cell _ hr (.inr hv) ha),
      fun _ => execCall_of_stop (storeWord_of_not_cell _ hr (.inr hv) ha)⟩

/-! ## Reading back -/

/-- Settles O27: a checked load from the cell just written. -/
theorem storeThenLoadReturnsTheValue : Obligations.StoreThenLoadReturnsTheValue := by
  unfold Obligations.StoreThenLoadReturnsTheValue
  intro a s hr hwf ha hv
  exact ⟨_, _, execStore_of_allowed hr (.inr hv) ha, loadChecked_of_cell (by exact hr) (by exact hv) ha,
    Mem.read_write_same s.mem a.toNat s.ac hwf, rfl⟩

theorem fetchOpcode_of_read {t : State} {w : Word} (hr : Ready t) (hc : Cell t.pc) (hn : t.instrCount < cntMax)
    (hw : t.mem.read t.pc.toNat = w) :
    fetchOpcode t = .ok w
      { t with ir := w, instrCount := t.instrCount + 1, trace := t.trace ++ [.read t.pc] } := by
  rw [fetchOpcode_ready hr hc hn, hw]

/-- Settles O28: an opcode fetch from the cell just written. -/
theorem storeThenFetchSeesTheStoredWord : Obligations.StoreThenFetchSeesTheStoredWord := by
  unfold Obligations.StoreThenFetchSeesTheStoredWord
  intro a s hr hwf ha hallowed hn
  have hread : (s.mem.write a.toNat s.ac).read a.toNat = s.ac := Mem.read_write_same s.mem a.toNat s.ac hwf
  exact ⟨_, _, execStore_of_allowed hr hallowed ha, fetchOpcode_of_read (by exact hr) ha (by exact hn) hread, rfl, rfl⟩

/-- A pop right after a push finds the word pushed, and restores SP (20_memory.md R46, R47). -/
theorem pop_of_pushed {t : State} {m : Mem} {sp v : Word} (hr : Ready t) (hm : m.Wf) (ha : Cell sp)
    (hsp : t.sp = wrap (sp.toInt - 1)) (hmem : t.mem = m.write sp.toNat v) :
    pop t = .ok v { t with sp := sp, trace := t.trace ++ [.read sp] } := by
  have hback : wrap (t.sp.toInt + 1) = sp := by rw [hsp, wrap_sub_one_add_one]
  rw [pop_of_cell hr (hback ▸ ha), hback, hmem, Mem.read_write_same m _ v hm]

theorem execRet_of_pop {s t : State} {v : Word} (h : pop s = .ok v t) : execRet s = .next { t with pc := v } := by
  rw [execRet, h, Act.finish_ok]

theorem execPop_of_pop {s t : State} {v : Word} (h : pop s = .ok v t) :
    execPop s = .next { t with ac := v, pc := wrap (t.pc.toInt + 1) } := by
  rw [execPop, h, Act.finish_ok, advance]

/-- Settles O40: Ret pops what Call pushed. -/
theorem callThenRetReturns : Obligations.CallThenRetReturns := by
  unfold Obligations.CallThenRetReturns
  intro target s hr hwf ha hallowed
  exact ⟨_, _, execCall_of_allowed target hr hallowed ha, rfl,
    execRet_of_pop (pop_of_pushed (by exact hr) hwf ha rfl rfl), rfl, rfl⟩

/-- Settles O43: Pop pops what Push pushed. -/
theorem pushThenPopIsIdentity : Obligations.PushThenPopIsIdentity := by
  unfold Obligations.PushThenPopIsIdentity
  intro s hr hwf ha hallowed
  exact ⟨_, _, execPush_of_allowed hr hallowed ha, execPop_of_pop (pop_of_pushed (by exact hr) hwf ha rfl rfl), rfl,
    rfl, Mem.read_write_same s.mem s.sp.toNat s.ac hwf⟩

end Sys2Proof.Machine
end

section
/-! O29, O30, O33, O34, O42, O44 to O46: the random value, output, the copies, Pop and the system instructions. -/

namespace Sys2Proof.Machine

open Sys2Proof Sys2Proof.Config

/-! ## Get and Put (41_random_output.md R120, R121) -/

theorem toInt_drawValue (n : Nat) : (drawValue n).toInt = (freeDraw n).val + 1 := by
  have hlt := (freeDraw n).isLt
  have h := BitVec.toInt_eq_toNat_cond (drawValue n)
  rw [drawValue, BitVec.toNat_ofNat] at h
  rw [drawValue, h]
  split <;> omega

/-- Settles O29: a draw is the free value of 0..99, plus 1. -/
theorem getWritesAValueFromOneToHundred : Obligations.GetWritesAValueFromOneToHundred := by
  unfold Obligations.GetWritesAValueFromOneToHundred
  refine ⟨fun s => ⟨drawValue s.draws, ?atLeastOne, ?atMostHundred, rfl⟩, runsAlone_of_decodeOpcode rfl⟩
  case atLeastOne => rw [toInt_drawValue]; omega
  case atMostHundred =>
    have hlt := (freeDraw s.draws).isLt
    rw [toInt_drawValue]
    omega

theorem toInt_eq_one_iff (p : Word) : p.toInt = 1 ↔ p = 1 := by
  have h : (1 : Word).toInt = 1 := by decide
  rw [← BitVec.toInt_inj, h]

theorem toInt_eq_two_iff (p : Word) : p.toInt = 2 ↔ p = 2 := by
  have h : (2 : Word).toInt = 2 := by decide
  rw [← BitVec.toInt_inj, h]

theorem execPut_of_other {p : Word} {s : State} (hc : s.cpu = .idle) (h₁ : p ≠ 1) (h₂ : p ≠ 2) :
    execPut p s = .next (faultedState (.illegalPort p s.pc) s) := by
  rw [execPut, if_neg (mt (toInt_eq_one_iff p).mp h₁), if_neg (mt (toInt_eq_two_iff p).mp h₂), fatal_idle _ hc]

/-- Settles O30: port 1, port 2, and any other; the row of opcode 9. -/
theorem putAppendsOneEventOrRaisesIllegalPort : Obligations.PutAppendsOneEventOrRaisesIllegalPort := by
  unfold Obligations.PutAppendsOneEventOrRaisesIllegalPort
  refine ⟨fun p s hc => ⟨fun h => ?int, fun h => ?char, execPut_of_other hc⟩, runsWithOperand_of_decodeOpcode rfl⟩
  case int => subst h; rfl
  case char => subst h; rfl

/-! ## The copies (43_register_transfer.md R150 to R155, decision D3) -/

/-- Settles O33: each pair at its default direction, and the rows of opcodes 14 to 19. -/
theorem copiesFollowTheDefaultDirection : Obligations.CopiesFollowTheDefaultDirection := by
  unfold Obligations.CopiesFollowTheDefaultDirection
  refine ⟨fun s => ⟨fun h => ⟨?toX, ?fromX⟩, fun h => ⟨?toY, ?fromY⟩, fun h => ⟨?toSp, ?fromSp⟩⟩, ?rows⟩
  case toX => simp only [exec, execCopyToX, h, advance]
  case fromX => simp only [exec, execCopyFromX, h, advance]
  case toY => simp only [exec, execCopyToY, h, advance]
  case fromY => simp only [exec, execCopyFromY, h, advance]
  case toSp => simp only [exec, execCopyToSp, h, advance]
  case fromSp => simp only [exec, execCopyFromSp, h, advance]
  case rows =>
    and_intros
    all_goals exact runsAlone_of_decodeOpcode rfl

/-- Settles O34: each pair turned round. -/
theorem copiesFollowTheReversedDirection : Obligations.CopiesFollowTheReversedDirection := by
  unfold Obligations.CopiesFollowTheReversedDirection
  refine fun s => ⟨fun h => ⟨?toX, ?fromX⟩, fun h => ⟨?toY, ?fromY⟩, fun h => ⟨?toSp, ?fromSp⟩⟩
  case toX => simp only [exec, execCopyToX, h, advance]
  case fromX => simp only [exec, execCopyFromX, h, advance]
  case toY => simp only [exec, execCopyToY, h, advance]
  case fromY => simp only [exec, execCopyFromY, h, advance]
  case toSp => simp only [exec, execCopyToSp, h, advance]
  case fromSp => simp only [exec, execCopyFromSp, h, advance]

/-! ## Pop (45_stack.md R181) -/

theorem execPop_of_cell {s : State} (hr : Ready s) (ha : Cell (wrap (s.sp.toInt + 1))) :
    execPop s = .next
      { s with
        ac := s.mem.read (wrap (s.sp.toInt + 1)).toNat
        sp := wrap (s.sp.toInt + 1)
        pc := wrap (s.pc.toInt + 1)
        trace := s.trace ++ [.read (wrap (s.sp.toInt + 1))] } :=
  execPop_of_pop (pop_of_cell hr ha)

theorem execPop_of_not_cell {s : State} (hr : Ready s) (ha : ¬ Cell (wrap (s.sp.toInt + 1))) :
    execPop s = .next (faultedState (.outOfRange (wrap (s.sp.toInt + 1)) s.mode s.pc)
      { s with sp := wrap (s.sp.toInt + 1) }) := by
  rw [execPop, pop_of_not_cell hr ha, Act.finish_stop]

/-- Settles O42: the pop into AC, done or faulting; opcode 28 has no operand word. -/
theorem popIncrementsSpThenLoadsAc : Obligations.PopIncrementsSpThenLoadsAc := by
  unfold Obligations.PopIncrementsSpThenLoadsAc
  exact ⟨fun _ hr => ⟨execPop_of_cell hr, execPop_of_not_cell hr⟩, runsAlone_of_decodeOpcode rfl⟩

/-! ## Int, IRet and End (46_system.md R190 to R192) -/

/-- Settles O44: the trap entry to 1500, or the fault in kernel mode; opcode 29 has no operand word. -/
theorem intEntersTheKernelFromUserMode : Obligations.IntEntersTheKernelFromUserMode := by
  unfold Obligations.IntEntersTheKernelFromUserMode
  exact ⟨fun _ hr => ⟨execInt_user hr, execInt_kernel hr⟩, runsAlone_of_decodeOpcode rfl⟩

theorem wrap_add_one_add_one (a : Word) : wrap ((wrap (a.toInt + 1)).toInt + 1) = wrap (a.toInt + 2) := by
  have h : wrap (a.toInt + 2) = a + 2 := wrap_toInt_add a 2
  rw [wrap_toInt_add_one, wrap_toInt_add_one, h, BitVec.add_assoc]
  rfl

theorem trapReturn_of_first_not_cell {s : State} (hr : Ready s) (h₁ : ¬ Cell (wrap (s.sp.toInt + 1))) :
    trapReturn s = .next (faultedState (.outOfRange (wrap (s.sp.toInt + 1)) .user s.pc)
      { s with mode := .user, sp := wrap (s.sp.toInt + 1) }) := by
  rw [trapReturn, pop_of_not_cell (by exact hr) (by exact h₁), Act.finish_stop]

/-- After the first pop: PC holds the word popped, and the second pop is at SP + 2. -/
theorem trapReturn_of_first_cell {s : State} (hr : Ready s) (h₁ : Cell (wrap (s.sp.toInt + 1))) :
    trapReturn s =
      (pop { s with
        mode := .user
        pc := s.mem.read (wrap (s.sp.toInt + 1)).toNat
        sp := wrap (s.sp.toInt + 1)
        trace := s.trace ++ [.read (wrap (s.sp.toInt + 1))] }).finish fun newSp u => .next { u with sp := newSp } := by
  rw [trapReturn, pop_of_cell (by exact hr) (by exact h₁), Act.finish_ok]

theorem trapReturn_of_second_not_cell {s : State} (hr : Ready s) (h₁ : Cell (wrap (s.sp.toInt + 1)))
    (h₂ : ¬ Cell (wrap (s.sp.toInt + 2))) :
    trapReturn s = .next
      (faultedState (.outOfRange (wrap (s.sp.toInt + 2)) .user (s.mem.read (wrap (s.sp.toInt + 1)).toNat))
        { s with
          mode := .user
          sp := wrap (s.sp.toInt + 2)
          pc := s.mem.read (wrap (s.sp.toInt + 1)).toNat
          trace := s.trace ++ [.read (wrap (s.sp.toInt + 1))] }) := by
  rw [← wrap_add_one_add_one] at h₂ ⊢
  rw [trapReturn_of_first_cell hr h₁, pop_of_not_cell (by exact hr) (by exact h₂), Act.finish_stop]

theorem trapReturn_of_cells {s : State} (hr : Ready s) (h₁ : Cell (wrap (s.sp.toInt + 1)))
    (h₂ : Cell (wrap (s.sp.toInt + 2))) :
    trapReturn s = .next
      { s with
        mode := .user
        pc := s.mem.read (wrap (s.sp.toInt + 1)).toNat
        sp := s.mem.read (wrap (s.sp.toInt + 2)).toNat
        trace := s.trace ++ [.read (wrap (s.sp.toInt + 1)), .read (wrap (s.sp.toInt + 2))] } := by
  rw [← wrap_add_one_add_one] at h₂ ⊢
  rw [trapReturn_of_first_cell hr h₁, pop_of_cell (by exact hr) (by exact h₂), Act.finish_ok, List.append_assoc,
    List.singleton_append]

/-- Settles O45: the two pops, each done or faulting; opcode 30 has no operand word. -/
theorem iRetPopsPcThenSpInUserMode : Obligations.IRetPopsPcThenSpInUserMode := by
  unfold Obligations.IRetPopsPcThenSpInUserMode
  exact ⟨fun _ hr => ⟨trapReturn_of_first_not_cell hr, trapReturn_of_second_not_cell hr, trapReturn_of_cells hr⟩,
    runsAlone_of_decodeOpcode rfl⟩

/-- Settles O46: the shutdown of an idle CPU; opcode 50 has no operand word. -/
theorem endHaltsWithShutdownLast : Obligations.EndHaltsWithShutdownLast := by
  unfold Obligations.EndHaltsWithShutdownLast
  exact ⟨fun _ hr => execEnd_of_idle hr.1, runsAlone_of_decodeOpcode rfl⟩

end Sys2Proof.Machine
end

section
/-! O11 to O18 (60_exceptions.md R224 to R233): the timer, the admission check, and a trap entry followed at once by a
trap return. -/

namespace Sys2Proof.Machine

open Sys2Proof Sys2Proof.Config

/-! ## The timer condition (60_exceptions.md R224, decision D16) -/

theorem timerDue_iff (s : State) :
    timerDue s = true ↔ TimerT s ∧ ¬ (s.params.admitOnce = true ∧ s.timerServedAt = some s.instrCount) := by
  cases h : s.params.admitOnce <;> simp [timerDue, h, and_assoc]

theorem timerDue_iff_of_not_admitOnce {s : State} (h : s.params.admitOnce = false) : timerDue s = true ↔ TimerT s := by
  simp [timerDue_iff, h]

theorem timerDue_iff_of_admitOnce {s : State} (h : s.params.admitOnce = true) :
    timerDue s = true ↔ TimerT s ∧ s.timerServedAt ≠ some s.instrCount := by
  simp [timerDue_iff, h]

theorem timerServed_of_admitOnce {s : State} (h : s.params.admitOnce = true) :
    timerServed s = { s with timerServedAt := some s.instrCount } := by
  rw [timerServed, if_pos h]

/-- Settles O11: a remainder of 0 is divisibility by the quantum. -/
theorem timerFiresAtNonzeroMultiplesOfTheQuantum : Obligations.TimerFiresAtNonzeroMultiplesOfTheQuantum := by
  unfold Obligations.TimerFiresAtNonzeroMultiplesOfTheQuantum
  intro s h
  rw [timerDue_iff_of_not_admitOnce h, ← dvd_iff_exists_eq_mul_left, Nat.dvd_iff_mod_eq_zero]

/-! ## The admission check (60_exceptions.md R227) -/

theorem admissionCheck_kernel_due {s : State} (hm : s.mode = .kernel) (hd : timerDue s = true)
    (hp : s.pending < cntMax) : admissionCheck s = .ok false (timerServed { s with pending := s.pending + 1 }) := by
  simp only [admissionCheck, hm, hd, if_true, if_neg (Nat.not_le.mpr hp)]

theorem admissionCheck_kernel_full {s : State} (hc : s.cpu = .idle) (hm : s.mode = .kernel) (hd : timerDue s = true)
    (hp : cntMax ≤ s.pending) : admissionCheck s = .stop (.next (faultedState (.counterOverflow s.pc) s)) := by
  simp only [admissionCheck, hm, hd, if_true, if_pos hp, raise, fatal_idle _ hc]

theorem admissionCheck_kernel_not_due {s : State} (hm : s.mode = .kernel) (hd : ¬ timerDue s = true) :
    admissionCheck s = .ok false s := by
  simp only [admissionCheck, hm, if_neg hd]

theorem admissionCheck_user_due {s : State} (hm : s.mode = .user) (hd : timerDue s = true) :
    admissionCheck s = .ok true (timerServed { s with pending := s.pending - 1 }) := by
  simp only [admissionCheck, hm, hd, if_true]

theorem admissionCheck_user_pending {s : State} (hm : s.mode = .user) (hd : ¬ timerDue s = true)
    (hp : 0 < s.pending) : admissionCheck s = .ok true { s with pending := s.pending - 1 } := by
  simp only [admissionCheck, hm, if_neg hd, if_pos hp]

theorem admissionCheck_user_none {s : State} (hm : s.mode = .user) (hd : ¬ timerDue s = true) (hp : s.pending = 0) :
    admissionCheck s = .ok false s := by
  simp only [admissionCheck, hm, if_neg hd, hp, lt_irrefl, if_false]

/-! ## ADMIT_ONCE_PER_COUNT off -/

/-- The pending interrupts after an admission check in kernel mode. -/
def queued (s : State) : Nat := if TimerT s then s.pending + 1 else s.pending

theorem admissionCheck_kernel {s : State} (hopt : s.params.admitOnce = false) (hm : s.mode = .kernel)
    (hp : s.pending < cntMax) : admissionCheck s = .ok false { s with pending := queued s } := by
  by_cases hT : TimerT s
  · rw [admissionCheck_kernel_due hm ((timerDue_iff_of_not_admitOnce hopt).mpr hT) hp,
      timerServed_of_not_admitOnce (by exact hopt), queued, if_pos hT]
  · rw [admissionCheck_kernel_not_due hm (mt (timerDue_iff_of_not_admitOnce hopt).mp hT), queued, if_neg hT]

theorem admissionCheck_user_enter {s : State} (hopt : s.params.admitOnce = false) (hm : s.mode = .user)
    (h : TimerT s ∨ 0 < s.pending) : admissionCheck s = .ok true { s with pending := s.pending - 1 } := by
  by_cases hT : TimerT s
  · rw [admissionCheck_user_due hm ((timerDue_iff_of_not_admitOnce hopt).mpr hT),
      timerServed_of_not_admitOnce (by exact hopt)]
  · exact admissionCheck_user_pending hm (mt (timerDue_iff_of_not_admitOnce hopt).mp hT) (h.resolve_left hT)

/-- Settles O12: the branches of the admission check with T as the rule writes it. -/
theorem admissionCheckQueuesOrEnters : Obligations.AdmissionCheckQueuesOrEnters := by
  unfold Obligations.AdmissionCheckQueuesOrEnters
  intro s hopt hc
  have hdue : timerDue s = true ↔ TimerT s := timerDue_iff_of_not_admitOnce hopt
  refine ⟨fun hm hT hp => ?queue, fun hm hT hp => ?overflow, fun hm hT => ?kernelNone, fun hm h => ?enter,
    fun hm hT hp => ?userNone⟩
  case queue => rw [admissionCheck_kernel hopt hm hp, queued, if_pos hT]
  case overflow => exact admissionCheck_kernel_full hc hm (hdue.mpr hT) hp.ge
  case kernelNone => exact admissionCheck_kernel_not_due hm (mt hdue.mp hT)
  case enter => exact admissionCheck_user_enter hopt hm h
  case userNone => exact admissionCheck_user_none hm (mt hdue.mp hT) hp

/-- Settles O13: with the option on, T does not hold at a recorded count, and serving it records the count. -/
theorem admitOnceFiresOncePerCount : Obligations.AdmitOnceFiresOncePerCount := by
  unfold Obligations.AdmitOnceFiresOncePerCount
  intro s hopt
  have hdue : timerDue s = true ↔ TimerT s ∧ s.timerServedAt ≠ some s.instrCount := timerDue_iff_of_admitOnce hopt
  refine ⟨fun h => ?served, fun hm hT h => ?enter, fun hm hT h hp => ?queue⟩
  case served => exact Bool.eq_false_iff.mpr fun hd => (hdue.mp hd).2 h
  case enter => rw [admissionCheck_user_due hm (hdue.mpr ⟨hT, h⟩), timerServed_of_admitOnce (by exact hopt)]
  case queue => rw [admissionCheck_kernel_due hm (hdue.mpr ⟨hT, h⟩) hp, timerServed_of_admitOnce (by exact hopt)]

/-! ## Trap entry, and the trap return after it -/

/-- The state a trap entry at `s` leaves (60_exceptions.md R230). -/
def enteredState (vector savedPc : Word) (s : State) : State :=
  { s with
    mode := .kernel
    pc := vector
    sp := 1997
    mem := (s.mem.write 1999 s.sp).write 1998 savedPc
    trace := s.trace ++ [.write 1999 s.sp, .write 1998 savedPc] }

theorem trapEntry_eq_enteredState {vector savedPc : Word} {s : State} (hr : Ready s) :
    trapEntry vector savedPc s = .next (enteredState vector savedPc s) :=
  trapEntry_ready hr

theorem step_timerEntry {s : State} (hs : Runs s) (hm : s.mode = .user) (hopt : s.params.admitOnce = false)
    (h : TimerT s ∨ 0 < s.pending) :
    step s = .next (enteredState 1000 s.pc { s with pending := s.pending - 1 }) :=
  (step_of_enter hs (admissionCheck_user_enter hopt hm h)).trans (trapEntry_eq_enteredState (by exact hs.2.2))

/-- Settles O14: ENTER, and then the trap entry to 1000. -/
theorem timerEntryIsOneWholeStep : Obligations.TimerEntryIsOneWholeStep := by
  unfold Obligations.TimerEntryIsOneWholeStep
  exact fun s hs hm hopt h => step_timerEntry hs hm hopt h

/-- A trap return with the system stack as a trap entry left it pops what that entry saved (60_exceptions.md R233). -/
theorem trapReturn_of_saved {u : State} {m : Mem} {oldSp savedPc : Word} (hr : Ready u) (hsp : u.sp = 1997)
    (hm : m.Wf) (hmem : u.mem = (m.write 1999 oldSp).write 1998 savedPc) :
    trapReturn u = .next
      { u with mode := .user, pc := savedPc, sp := oldSp, trace := u.trace ++ [.read 1998, .read 1999] } := by
  have h₁ : wrap (u.sp.toInt + 1) = 1998 := by rw [hsp]; decide
  have h₂ : wrap (u.sp.toInt + 2) = 1999 := by rw [hsp]; decide
  have hpc : u.mem.read 1998 = savedPc := by rw [hmem, read_savedPc m oldSp savedPc hm]
  have hold : u.mem.read 1999 = oldSp := by rw [hmem, read_savedSp m oldSp savedPc hm]
  have h := trapReturn_of_cells hr (by rw [h₁]; decide) (by rw [h₂]; decide)
  rw [h₁, h₂] at h
  rw [h, ← hpc, ← hold]
  rfl

theorem exec_iret (s : State) : exec .iret s = trapReturn s := rfl

/-- The state in which a handler that is one opcode 30 has returned from a trap entry at `s` to `vector`. -/
def returnedState (vector savedPc : Word) (s : State) : State :=
  { s with
    mode := .user
    pc := savedPc
    ir := 30
    instrCount := s.instrCount + 1
    pending := queued s
    mem := (s.mem.write 1999 s.sp).write 1998 savedPc
    trace := s.trace ++ [.write 1999 s.sp, .write 1998 savedPc] ++ [.read vector] ++ [.read 1998, .read 1999] }

/-- A handler that is one opcode 30, outside the two cells a trap entry writes, restores PC, SP and user mode. -/
theorem step_enteredState {vector savedPc : Word} {s : State} (hs : Runs s) (hwf : s.mem.Wf)
    (hopt : s.params.admitOnce = false) (hn : s.instrCount < cntMax) (hp : s.pending < cntMax)
    (hvector : vector = 1000 ∨ vector = 1500) (hw : s.mem.read vector.toNat = 30) :
    step (enteredState vector savedPc s) = .next (returnedState vector savedPc s) := by
  have hcell : Cell vector ∧ vector.toNat ≠ 1998 ∧ vector.toNat ≠ 1999 := by rcases hvector with rfl | rfl <;> decide
  obtain ⟨hpc, h₁, h₂⟩ := hcell
  have hhandler : (enteredState vector savedPc s).mem.read vector.toNat = 30 :=
    (Mem.read_write_other _ _ h₁).trans ((Mem.read_write_other _ _ h₂).trans hw)
  have hadm : admissionCheck (enteredState vector savedPc s) = .ok false _ := admissionCheck_kernel hopt rfl hp
  have hiret : RunsAlone 30 .iret := runsAlone_of_decodeOpcode rfl
  rw [hiret (enteredState vector savedPc s) _ hs hadm hpc hn hhandler, exec_iret]
  exact trapReturn_of_saved (by exact hs.2.2) rfl hwf rfl

/-- Settles O15: the timer entry, and the handler that is one opcode 30. -/
theorem timerEntryThenIRetRestores : Obligations.TimerEntryThenIRetRestores := by
  unfold Obligations.TimerEntryThenIRetRestores
  intro s hs hwf hm hopt h hn hp hw
  have hcnt : 0 < cntMax := by decide
  refine ⟨_, _, step_timerEntry hs hm hopt h,
    step_enteredState hs hwf hopt hn (by show s.pending - 1 < cntMax; omega) (.inl rfl) hw, hs.1, rfl, rfl, rfl, rfl, rfl,
    rfl, rfl, rfl, fun a h₁ h₂ => ?_⟩
  exact (Mem.read_write_other _ _ h₁).trans (Mem.read_write_other _ _ h₂)

/-- Settles O16: T still holds in the handler's first cycle, and the interrupt it queues enters again. -/
theorem timerEntryReentersOnceAfterIRet : Obligations.TimerEntryReentersOnceAfterIRet := by
  unfold Obligations.TimerEntryReentersOnceAfterIRet
  intro s hs hwf hm hopt hT hn hp hw
  have hcnt : 0 < cntMax := by decide
  have hqueued : queued { s with pending := s.pending - 1 } = s.pending - 1 + 1 := if_pos hT
  have hwf' : ((s.mem.write 1999 s.sp).write 1998 s.pc).Wf :=
    Mem.write_wf _ (Mem.write_wf _ hwf (by decide)) (by decide)
  have hreturned : Runs (returnedState 1000 s.pc { s with pending := s.pending - 1 }) := hs
  refine ⟨_, _, _, step_timerEntry hs hm hopt (.inl hT),
    step_enteredState hs hwf hopt hn (by show s.pending - 1 < cntMax; omega) (.inl rfl) hw,
    step_timerEntry hreturned rfl hopt (.inr ?pending), rfl, hqueued, rfl, rfl, read_savedPc _ _ _ hwf',
    read_savedSp _ _ _ hwf'⟩
  case pending => exact (Nat.succ_pos _).trans_eq hqueued.symm

/-- Settles O17: with Q = 1 every nonzero count satisfies T. -/
theorem quantumOneNeverRunsUserInstruction : Obligations.QuantumOneNeverRunsUserInstruction := by
  unfold Obligations.QuantumOneNeverRunsUserInstruction
  intro s t hs hq hopt hcount h
  have hT : TimerT s := ⟨hcount, by rw [hq, Nat.mod_one]⟩
  refine ⟨fun hm => ?user, fun hm ht => ?kernel⟩
  case user =>
    rw [step_timerEntry hs hm hopt (.inl hT)] at h
    cases h
    exact ⟨rfl, rfl, rfl, rfl⟩
  case kernel =>
    by_cases hp : s.pending < cntMax
    · rw [step_pending_of_none h (admissionCheck_kernel hopt hm hp)]
      exact if_pos hT
    · have hdue : timerDue s = true := (timerDue_iff_of_not_admitOnce hopt).mpr hT
      rw [step_of_stop hs (admissionCheck_kernel_full hs.2.2.1 hm hdue (Nat.le_of_not_lt hp))] at h
      cases h
      cases ht

/-- Settles O18: opcode 29 is a trap entry to 1500, and the handler is one opcode 30. -/
theorem syscallThenIRetReturnsAfterTheCall : Obligations.SyscallThenIRetReturnsAfterTheCall := by
  unfold Obligations.SyscallThenIRetReturnsAfterTheCall
  intro s hs hwf hm hadm hopt hn hp hpc hint hiret
  have hrow : RunsAlone 29 .int := runsAlone_of_decodeOpcode rfl
  have hcall := (hrow s s hs hadm hpc (by omega) hint).trans (execInt_user (by exact hs.2.2) (by exact hm))
  exact ⟨_, _, hcall, step_enteredState (s := { s with
      ir := 29
      instrCount := s.instrCount + 1
      trace := s.trace ++ [.read s.pc] }) hs hwf hopt hn hp (.inr rfl) hiret,
    rfl, rfl, rfl, hs.1, rfl, rfl, rfl, rfl, rfl, rfl, rfl⟩

end Sys2Proof.Machine
end
